-- ==== Sys2Proof/Word.lean ====
section
/-! DEFINITION. The words of the block: a byte of a packet buffer, a reading of one of the two platform
clocks (10_state.md R21, R33), and the one arithmetic that wraps, the difference modulo 2^32 (00_scope.md R8). -/

namespace Sys2Proof

/-- One byte of a packet buffer, and every 8-bit register of R21. -/
abbrev Byte := BitVec 8

/-- A reading of the microsecond or of the millisecond clock: 32 bits, wrapping (R222). -/
abbrev Time := BitVec 32

/-- `a -_32 b` of R8: subtraction modulo 2^32. -/
abbrev sub32 (a b : Time) : Time := a - b

end Sys2Proof
end

