-- ==== Sys2Proof/Syntax.lean ====
section
/-! DEFINITION. The instructions of the block in the sense of 00_scope.md R5: one constructor for each row of
spec/opcode_table.json, with the small closed types its operands are drawn from. -/

namespace Sys2Proof

/-- Which track an operation works on: `CMD[3]` of R101, 0 = main, 1 = programming. -/
inductive TrackSel where
  | main
  | prog
  deriving DecidableEq, Repr

/-- The wave states of R22 and R81, "a closed enumeration" of six values (R80). -/
inductive Wave where
  | start
  | mid1
  | high0
  | mid0
  | low0
  | pending
  deriving DecidableEq, Repr

/-- A signal level (R94): `LOW` = 0, `HIGH` = 1. -/
inductive Level where
  | low
  | high
  deriving DecidableEq, Repr, Inhabited

/-- The three results of `getAck` (R93). -/
inductive AckResult where
  | noAck
  | ack
  | pending
  deriving DecidableEq, Repr

/-- A power mode: a value of a type owned by the driver abstraction, without codes (R95). The block passes such values
through; the tag only tells two of them apart. -/
structure PowerMode where
  tag : Nat
  deriving DecidableEq, Repr, Inhabited

/-- One constructor per row of spec/opcode_table.json. An operand `t` is the track a row without a track bit is applied
to; an operand `trk` is `CMD[3]` of a port command, also where R101 says the operation ignores it. -/
inductive Instr where
  -- format WAVE (R81 to R83, R85)
  | waveStart (t : TrackSel)
  | waveMid1 (t : TrackSel)
  | waveHigh0 (t : TrackSel)
  | waveMid0 (t : TrackSel)
  | waveLow0 (t : TrackSel)
  | wavePending (t : TrackSel)
  | waveReserved6
  | waveReserved7
  -- format OP (R100 to R103)
  | schedulePacket (trk : TrackSel)
  | setAckBaseline (trk : TrackSel)
  | setAckPending (trk : TrackSel)
  | getAck (trk : TrackSel)
  | setPowerMode (trk : TrackSel)
  | getPowerMode (trk : TrackSel)
  | setPowerModeId (trk : TrackSel)
  | getPowerModeId (trk : TrackSel)
  | poll (trk : TrackSel)
  | setConfig (trk : TrackSel)
  | opReserved0 (low : BitVec 4)
  | opReservedB (low : BitVec 4)
  | opReservedC (low : BitVec 4)
  | opReservedD (low : BitVec 4)
  | opReservedE (low : BitVec 4)
  | opReservedF (low : BitVec 4)
  | opReservedLowbits (cmd : BitVec 8)
  -- format EVENT (R100)
  | tick
  | tickMainOnly
  | level (t : TrackSel)
  | step (t : TrackSel)
  | advance (t : TrackSel)
  | packetBoundary (t : TrackSel)
  | sampleTick
  -- format ACKRESULT (R93)
  | ackResultNoAck
  | ackResultAck
  | ackResultPending
  | ackResultReserved3
  -- format LEVEL (R94)
  | levelLow (t : TrackSel)
  | levelHigh (t : TrackSel)
  -- format BITMASK (R87)
  | bitmask0 (t : TrackSel)
  | bitmask1 (t : TrackSel)
  | bitmask2 (t : TrackSel)
  | bitmask3 (t : TrackSel)
  | bitmask4 (t : TrackSel)
  | bitmask5 (t : TrackSel)
  | bitmask6 (t : TrackSel)
  | bitmask7 (t : TrackSel)
  | bitmask8 (t : TrackSel)
  -- format FILLER (R91)
  | idlePacket
  | resetPacket
  -- format CFGREG (R40, R186)
  | cfgProgTrackSyncMain
  | cfgProgTrackBoosted
  | cfgAckLimit
  | cfgMinAckPulseDuration
  | cfgMaxAckPulseDuration
  | cfgReserved5
  | cfgReserved6
  | cfgReserved7
  deriving DecidableEq, Repr

/-- The code spaces of spec/opcode_table.json, one per format that has codes. The same bits mean different rows in
different spaces: a wave code, a port command and a mask entry are read from different places of the block. -/
inductive Space where
  | wave
  | port
  | strobe
  | ackResult
  | level
  | bitmask
  | filler
  | cfgReg
  deriving DecidableEq, Repr

/-- The bits of one row in the numbering of the table, with the space they are read in and the track the row is applied
to (a row of the port carries its track in its own bit 3, and does not look at `trk`). -/
structure Code where
  space : Space
  word : BitVec 24
  trk : TrackSel
  deriving DecidableEq, Repr

/-- Why the decoder refuses a code, by name. -/
inductive DecodeError where
  /-- The word has a bit above the width of its space. -/
  | wordTooWide (space : Space) (word : BitVec 24)
  /-- Wave codes 6 and 7: "A decoder of the 3-bit field must refuse them" (R85). -/
  | reservedWaveCode (code : BitVec 24)
  /-- Result code 3: "reserved: never returned" (R93). -/
  | reservedAckResult
  /-- A byte that is none of the nine entries of `BITMASK` (R87). -/
  | notAMaskEntry (word : BitVec 24)
  /-- Three bytes that are neither of the two filler packets (R91). -/
  | notAFillerPacket (word : BitVec 24)
  /-- The strobe input is low: no tick is asked for (R211). -/
  | noStrobe
  deriving DecidableEq, Repr

end Sys2Proof
end

