-- ==== Sys2Proof/Config.lean ====
section
/-! DEFINITION. What an implementation fixes: the parameters of 00_scope.md R6, each a field that a claim may quantify
over, and the free values, which the spec leaves open and which have no body here. -/

namespace Sys2Proof

/-- The drivers of one track by booster id: "primary first, then boosters in declaration order" (R181). -/
structure Chain where
  primary : Byte
  boosters : List Byte
  deriving DecidableEq, Repr

/-- The ids of a chain in traversal order. -/
def Chain.ids (c : Chain) : List Byte := c.primary :: c.boosters

/-- A filler packet: `FILLER_LEN` = 3 bytes, "last is the XOR of the others" (R6). -/
def isFillerPacket : List Byte → Bool
  | [a, b, c] => c == a ^^^ b
  | _ => false

/-- The parameters of R6 without their constraints. `HAS_PROG` is not among them: it is the presence of the field `prog`
of the state, as R20 has it. The constants R6 calls fixed are in Machine/Tables.lean. -/
structure ParamData where
  maxPacketSize : Nat
  preambleBitsMain : Nat
  preambleBitsProg : Nat
  idlePacket : List Byte
  resetPacket : List Byte
  curW : Nat
  ackLimitMa : Nat
  minAckPulseUs : Time
  maxAckPulseUs : Time
  chainMain : Chain
  chainProg : Chain
  tickPeriodUs : Nat
  deriving DecidableEq, Repr

/-- The constraint column of R6, and the distinct ids of R181. -/
def ParamData.ok (p : ParamData) : Bool :=
  decide (2 ≤ p.maxPacketSize) && decide (p.maxPacketSize ≤ 254)
    && decide (1 ≤ p.preambleBitsMain) && decide (p.preambleBitsMain ≤ 254)
    && decide (1 ≤ p.preambleBitsProg) && decide (p.preambleBitsProg ≤ 254)
    && isFillerPacket p.idlePacket && isFillerPacket p.resetPacket
    && decide (1 ≤ p.curW) && decide (p.ackLimitMa < 2 ^ p.curW)
    && decide (p.minAckPulseUs.toNat ≤ p.maxAckPulseUs.toNat)
    && decide (p.chainMain.ids ++ p.chainProg.ids).Nodup

/-- Parameters that meet their constraints. -/
structure Params extends ParamData where
  ok : toParamData.ok = true
  deriving DecidableEq, Repr

/-- The default column of R6: for the OPEN parameters, the values of the test vectors (DESIGN CHOICE, log entry 5). -/
def Params.default : Params where
  maxPacketSize := 5
  preambleBitsMain := 16
  preambleBitsProg := 22
  idlePacket := [0xFF, 0x00, 0xFF]
  resetPacket := [0x00, 0x00, 0x00]
  curW := 16
  ackLimitMa := 60
  minAckPulseUs := 4000
  maxAckPulseUs := 8000
  chainMain := ⟨0, []⟩
  chainProg := ⟨1, []⟩
  tickPeriodUs := 58
  ok := by decide

/-- `mA2raw` of R6 and R227: "a pure function of the driver", uninterpreted; its result is taken modulo `2^CUR_W` where it
is used (R156). Free value, log entry 6. -/
opaque Config.mA2raw : Nat → Nat

/-- `raw2mA` of R3 and R227: the driver's conversion of raw current units to milliamps, "pure functions of the driver and
parameters of the model". The block "never uses" it (R227), so no meaning and no statement reads it. Free value, log entry
6. -/
opaque Config.raw2mA : Nat → Nat

/-- The level of an output before the first tick after reset: "unspecified" (R45). Free value, log entry 7. -/
opaque Config.unspecifiedLevel : Nat → Level

/-- A power mode nobody states: the answer about an id that no driver has (R185), about a programming track that does not
exist (R102), or of a driver whose answer is not listed among the inputs of the step. Free value, log entry 8. -/
opaque Config.freePowerMode : Nat → PowerMode

/-- The current sample of a tick whose inputs are not listed (R226: any value). Free value, log entry 9. -/
opaque Config.freeCurrent : Nat → Nat

/-- The microsecond clock of a tick whose inputs are not listed (R222: any value). Free value, log entry 9. -/
opaque Config.freeNowUs : Nat → Time

/-- The millisecond clock of a tick whose inputs are not listed (R222: any value). Free value, log entry 9. -/
opaque Config.freeNowMs : Nat → Time

end Sys2Proof
end

