-- ==== Sys2Proof/Machine/Memory.lean ====
section
/-! DEFINITION. A packet buffer as memory (10_state.md R42): "its own address space of byte cells", addressed from 0, held
as a list of (address, byte) pairs in one canonical form. An unlisted address reads 0x00, the reset contents of R46. -/

namespace Sys2Proof.Machine

/-- One packet buffer. -/
abbrev Memory := List Host.Cell

/-- What a cell that is not listed reads as: R46 resets every cell outside the filler to 0. -/
abbrev Memory.unlisted : Byte := 0x00

/-- Every address listed is above `a`, rising, and holds something else than an unlisted cell. -/
def Memory.wfAbove : Memory → Nat → Bool
  | [], _ => true
  | (a', b) :: m, a => decide (a < a') && (b != Memory.unlisted) && Memory.wfAbove m a'

/-- The canonical form: addresses strictly rising, no entry equal to what an unlisted address reads as. -/
def Memory.wf : Memory → Bool
  | [] => true
  | (a, b) :: m => (b != Memory.unlisted) && Memory.wfAbove m a

/-- Every listed address is below `n`: the buffer has `n` cells. -/
def Memory.below (m : Memory) (n : Nat) : Bool := m.all fun c => decide (c.1 < n)

/-- `BUF[i]` (R8). -/
def Memory.read : Memory → Nat → Byte
  | [], _ => Memory.unlisted
  | (a, b) :: m, i => if i = a then b else Memory.read m i

/-- The tail of a write: put the cell in, or nothing where it holds what an unlisted cell reads as. -/
def Memory.cell (i : Nat) (v : Byte) (m : Memory) : Memory := if v = Memory.unlisted then m else (i, v) :: m

/-- `BUF[i] <- v` (R8). -/
def Memory.write : Memory → Nat → Byte → Memory
  | [], i, v => Memory.cell i v []
  | (a, b) :: m, i, v =>
    if i < a then Memory.cell i v ((a, b) :: m)
    else if i = a then Memory.cell i v m
    else (a, b) :: Memory.write m i v

/-- `BUF[i], BUF[i + 1], .. <- bs`, one byte at a time in rising order (R60). -/
def Memory.writeBytes : Memory → Nat → List Byte → Memory
  | m, _, [] => m
  | m, i, b :: bs => Memory.writeBytes (m.write i b) (i + 1) bs

/-- `for i = 0 .. n - 1: dst[i] <- src[i]` (R60, R120). -/
def Memory.copy (dst src : Memory) : Nat → Memory
  | 0 => dst
  | n + 1 => (Memory.copy dst src n).write n (src.read n)

/-- The bytes `BUF[0 .. n - 1]`. -/
def Memory.bytes (m : Memory) (n : Nat) : List Byte := (List.range n).map m.read

end Sys2Proof.Machine
end

