-- ==== Sys2Proof/Machine/Tables.lean ====
section
/-! DEFINITION. The constant tables of the block: next state, output level, bit mask, result codes, the filler packets'
length and the two fixed numbers (30_encoding.md R82, R83, R87, R91, R93; 00_scope.md R6). -/

namespace Sys2Proof.Machine

/-- `NEXT` (R82). The row of `PENDING` is never used between ticks. -/
def nextWave : Wave → Wave
  | .start => .pending
  | .mid1 => .start
  | .high0 => .mid0
  | .mid0 => .low0
  | .low0 => .start
  | .pending => .pending

/-- `LEVEL` (R83). The row of `PENDING` is never used. -/
def levelOf : Wave → Level
  | .start => .high
  | .mid1 => .low
  | .high0 => .high
  | .mid0 => .low
  | .low0 => .low
  | .pending => .low

/-- `BITMASK` (R87): entry 0 is zero, so the first bit of every byte is the framing '0'; then most significant bit
first. -/
def bitMask (k : Fin 9) : Byte :=
  match k with
  | 0 => 0x00
  | 1 => 0x80
  | 2 => 0x40
  | 3 => 0x20
  | 4 => 0x10
  | 5 => 0x08
  | 6 => 0x04
  | 7 => 0x02
  | 8 => 0x01

/-- The code of a `getAck` result (R93). -/
def ackCode : AckResult → BitVec 2
  | .noAck => 0
  | .ack => 1
  | .pending => 2

/-- `FILLER_LEN` (R6): the length both filler packets share, checksum included. -/
def fillerLen : Nat := 3

/-- `F(T)` of R46 and R121: `IDLE_PACKET` on the main track, `RESET_PACKET` on the programming track. -/
def fillerBytes (p : Params) (isMainTrack : Bool) : List Byte := if isMainTrack then p.idlePacket else p.resetPacket

/-- The protocol's minimum count of preamble bits on a track (R6, R46). -/
def preambleBits (p : Params) (isMainTrack : Bool) : Nat :=
  if isMainTrack then p.preambleBitsMain else p.preambleBitsProg

/-- `RESETS_CAP` (R6): where `sentResetsSincePacket` saturates. -/
def resetsCap : Nat := 250

/-- `ACK_TIMEOUT_RESETS` (R6, R159): the detector ends a session when the counter is above this. -/
def ackTimeoutResets : Nat := 6

end Sys2Proof.Machine
end

