-- ==== Sys2Proof/Machine/State.lean ====
section
/-! DEFINITION. The state of the block as plain data: the two tracks, the acknowledgment session, the configuration
registers (10_state.md), the host port (30_encoding.md R101), the outputs, the inputs the two agents bring, and the state
after reset (R46). -/

namespace Sys2Proof.Machine

/-- The register file of one track (R21), under the spec's names. `bitsSent` is the 4-bit register of R21 restricted to
its legal values `0 .. 8` (R44 bound 2, U5: more is not represented). -/
structure Track where
  isMainTrack : Bool
  state : Wave
  transmitBuffer : Memory
  transmitLength : BitVec 8
  bytesSent : BitVec 8
  bitsSent : Fin 9
  remainingPreambles : BitVec 8
  requiredPreambles : BitVec 8
  transmitRepeats : BitVec 8
  pendingBuffer : Memory
  pendingLength : BitVec 8
  pendingRepeats : BitVec 8
  packetPending : Bool
  sentResetsSincePacket : BitVec 8
  deriving DecidableEq, Repr

/-- The acknowledgment session (R33). Currents are numbers below `2^CUR_W`, the threshold below `2^(CUR_W + 1)`; `CUR_W` is
a parameter, so these three are naturals kept inside their widths by the invariant (R7). -/
structure AckSession where
  ackBaseline : Nat
  ackThreshold : Nat
  ackPulseStart : Time
  ackPulseDuration : Time
  ackMaxCurrent : Nat
  ackDetected : Bool
  ackPending : Bool
  ackCheckStart : Time
  ackCheckDuration : Time
  deriving DecidableEq, Repr

/-- What exists only when `HAS_PROG` (R20): the programming track and the session that belongs to it. -/
structure Prog where
  track : Track
  session : AckSession
  deriving DecidableEq, Repr

/-- The configuration registers (R40). -/
structure CfgRegs where
  progTrackSyncMain : Bool
  progTrackBoosted : Bool
  ackLimit : Nat
  minAckPulseDuration : Time
  maxAckPulseDuration : Time
  deriving DecidableEq, Repr

/-- The command word and the operand registers of the host port (R101). A cell of `ARG_BYTES` that is not listed holds
0x00. -/
structure PortArgs where
  cmd : BitVec 8
  argBytes : List Byte
  argCount : BitVec 8
  argRepeats : BitVec 8
  argMode : PowerMode
  argId : BitVec 8
  argFlag : Bool
  argReg : BitVec 3
  argValue : BitVec 32
  deriving DecidableEq, Repr

/-- What the response register `RSP` holds: a result code (R93), a power mode, which has no code (R95), or the level the
internal step `level(T)` answers (R111). -/
inductive Response where
  | ack (code : BitVec 2)
  | mode (m : PowerMode)
  | level (l : Level)
  deriving DecidableEq, Repr

/-- The host port (R101): the registers the host writes, the response, and the slot for which the `schedulePacket` in the
port is held, where it is (R142). The bit `BUSY` is read off that slot, by `State.busy` (log entry 14). -/
structure Port where
  args : PortArgs
  rsp : Response
  waiting : Option TrackSel
  deriving DecidableEq, Repr

/-- The inputs presented at one step (R4, R8): the answer of `getCurrentRaw`, the two clocks, and the power modes the
drivers report, by booster id. -/
structure Draws where
  current : Nat
  nowUs : Time
  nowMs : Time
  modes : List (Byte × PowerMode)
  deriving DecidableEq, Repr

/-- The commands the block gives to the driver abstraction (R8 `emit`, R225, R228). A driver is named by its id. -/
inductive Event where
  | setSignal (t : TrackSel) (l : Level)
  | setPowerMode (driver : Byte) (m : PowerMode)
  | checkPowerOverload (driver : Byte) (hint : Bool)
  deriving DecidableEq, Repr

/-- Whose step comes next, with the inputs presented at it. The interleaving of the two agents is free (R66), so it is
data. `row` is no agent's step: it applies one table row by its code, for the check of the opcode table only. -/
inductive Turn where
  | strobe (d : Draws)
  | control (d : Draws)
  | reset
  | row (c : Code) (d : Draws)
  deriving DecidableEq, Repr

/-- The state of the machine. `par`: the parameters. `main`, `prog`, `cfg`: the record of R20. `port`: the host port of
R101. `env`: the inputs of the current step. `out`: the commands of the current step, in order. `mainSignal`,
`progSignal`: the levels last asserted, held until the next (R225). `turns`: whose steps come next; after them the timer
goes on alone. `ctl`: the operations the control context has still to issue, oldest first. `freeCount`: the model's own
counter, applied to which the free values of Config are read. -/
structure State where
  par : Params
  main : Track
  prog : Option Prog
  cfg : CfgRegs
  port : Port
  env : Draws
  out : List Event
  mainSignal : Level
  progSignal : Level
  turns : List Turn
  ctl : List PortArgs
  freeCount : Nat
  deriving DecidableEq, Repr

/-- Why the machine stops with a fault. -/
inductive Fault where
  /-- The encoder's cursor `bytesSent` points past the last cell of the transmit buffer. Raised by `advance` and by the
  rows of `BITMASK`. No run from reset meets it: the spec calls such a state unreachable and gives it no meaning (R63, U5).
  Safe: the model stops where the spec says nothing. -/
  | bufferIndexOutside (index : Nat)
  deriving DecidableEq, Repr

/-- Why the machine refuses. -/
inductive Refusal where
  /-- The instruction has no meaning yet. Safe. -/
  | notModelled (mnemonic : String)
  /-- Wave codes 6 and 7, raised by the meanings of their rows: "A decoder of the 3-bit field must refuse them" (R85).
  Safe. -/
  | reservedWaveCode (code : BitVec 3)
  /-- Result code 3, raised by the meaning of its row: "reserved: never returned" (R93). Safe. -/
  | reservedAckResult
  /-- A `row` turn whose code the decoder refuses, raised by `step`. Safe: no agent of the block takes such a turn. -/
  | undecodable (e : DecodeError)
  deriving DecidableEq, Repr

/-- The outcome of an instruction or of a step. -/
abbrev Result := Host.Outcome State Fault Refusal

/-- A track after reset (R46): at the first tick of the first preamble bit of its filler packet. -/
def Track.reset (p : Params) (isMainTrack : Bool) : Track where
  isMainTrack := isMainTrack
  state := .start
  transmitBuffer := Memory.writeBytes [] 0 (fillerBytes p isMainTrack)
  transmitLength := BitVec.ofNat 8 fillerLen
  bytesSent := 0
  bitsSent := 0
  remainingPreambles := BitVec.ofNat 8 (preambleBits p isMainTrack + 1)
  requiredPreambles := BitVec.ofNat 8 (preambleBits p isMainTrack + 1)
  transmitRepeats := 0
  pendingBuffer := []
  pendingLength := 0
  pendingRepeats := 0
  packetPending := false
  sentResetsSincePacket := 0

/-- The session after reset (R46). -/
def AckSession.reset : AckSession := ⟨0, 0, 0, 0, 0, false, false, 0, 0⟩

/-- The configuration registers after reset (R40, R46). -/
def CfgRegs.reset (p : Params) : CfgRegs := ⟨false, false, p.ackLimitMa, p.minAckPulseUs, p.maxAckPulseUs⟩

/-- The port after reset: the spec gives no value, zero is the model's (DESIGN CHOICE, log entry 10). -/
def Port.reset : Port := ⟨⟨0, [], 0, 0, ⟨0⟩, 0, false, 0, 0⟩, .ack 0, none⟩

/-- Inputs before any step has presented some (DESIGN CHOICE, log entry 10). -/
def Draws.none : Draws := ⟨0, 0, 0, []⟩

/-- The programming side after reset. -/
def Prog.reset (p : Params) : Prog := ⟨Track.reset p false, AckSession.reset⟩

/-- The block after reset, for each choice of `HAS_PROG` and of the other parameters (R46). -/
def State.resetWith (hasProg : Bool) (p : Params) : State where
  par := p
  main := Track.reset p true
  prog := if hasProg then some (Prog.reset p) else none
  cfg := CfgRegs.reset p
  port := Port.reset
  env := Draws.none
  out := []
  mainSignal := Config.unspecifiedLevel 0
  progSignal := Config.unspecifiedLevel 1
  turns := []
  ctl := []
  freeCount := 2

/-- The block after reset with the default parameters of R6. -/
def State.reset : State := State.resetWith true Params.default

/-- A second reset event (R242): "the same total overwrite" of the block and its port. What stands outside, the steps to
come and the operations the control context has still to issue, is not the block's. -/
def State.resetBlock (s : State) : State :=
  { State.resetWith s.prog.isSome s.par with
    mainSignal := Config.unspecifiedLevel s.freeCount
    progSignal := Config.unspecifiedLevel (s.freeCount + 1)
    turns := s.turns
    ctl := s.ctl
    freeCount := s.freeCount + 2 }

end Sys2Proof.Machine
end

