-- ==== Sys2Proof/Machine/Ops.lean ====
section
/-! DEFINITION. The named operations over the registers, the tracks, the outputs and the answers of the port. The block
raises no exception and saves nothing when a tick enters (60_exceptions.md R213, R216), so there is no operation that
takes an exception and none that returns from one: a tick enters at the dispatcher and ends with its last step (R217). -/

namespace Sys2Proof.Machine

/-- `HAS_PROG` (R6, R20). -/
def State.hasProg (s : State) : Bool := s.prog.isSome

/-- The track `t`, where it exists (R20). -/
def State.track? (s : State) (t : TrackSel) : Option Track :=
  match t with
  | .main => some s.main
  | .prog => s.prog.map Prog.track

/-- Writes the registers of track `t`; nothing where there is no such track. -/
def State.setTrack (s : State) (t : TrackSel) (T : Track) : State :=
  match t with
  | .main => { s with main := T }
  | .prog => { s with prog := s.prog.map fun p => { p with track := T } }

/-- Writes the session, where there is one. -/
def State.setSession (s : State) (S : AckSession) : State :=
  { s with prog := s.prog.map fun p => { p with session := S } }

/-- `emit` (R8). -/
def State.emit (s : State) (e : Event) : State := { s with out := s.out ++ [e] }

/-- `emit` for each of a list, in order. -/
def State.emitAll (s : State) (es : List Event) : State := { s with out := s.out ++ es }

/-- `emit setSignal(T, L)` (R8, R225): the level stays asserted until the next call. -/
def State.setSignal (s : State) (t : TrackSel) (l : Level) : State :=
  match t with
  | .main => { s with out := s.out ++ [.setSignal .main l], mainSignal := l }
  | .prog => { s with out := s.out ++ [.setSignal .prog l], progSignal := l }

/-- The level asserted on an output (R225, R45). -/
def State.signal (s : State) (t : TrackSel) : Level :=
  match t with
  | .main => s.mainSignal
  | .prog => s.progSignal

/-- Writes the response register (R101). -/
def State.respond (s : State) (r : Response) : State := { s with port := { s.port with rsp := r } }

/-- Holds the operation in the port until the slot of track `t` is free (R142). -/
def State.holdFor (s : State) (t : TrackSel) : State := { s with port := { s.port with waiting := some t } }

/-- The pending slot of track `t` is occupied (R71). -/
def State.slotOccupied (s : State) (t : TrackSel) : Bool :=
  match s.track? t with
  | some T => T.packetPending
  | none => false

/-- `BUSY` (R101): 1 while the operation in the port is held, which it is as long as the slot it waits for is occupied
(R142): the tick that frees the slot ends the hold (R212). -/
def State.busy (s : State) : Bool :=
  match s.port.waiting with
  | some t => s.slotOccupied t
  | none => false

/-- The drivers of track `t` in traversal order (R181). -/
def State.chain (s : State) (t : TrackSel) : Chain :=
  match t with
  | .main => s.par.chainMain
  | .prog => s.par.chainProg

/-- The ids of `chain(main) ++ chain(prog)` (R184); without a programming track there is only the main chain. -/
def State.drivers (s : State) : List Byte :=
  s.par.chainMain.ids ++ (if s.hasProg then s.par.chainProg.ids else [])

/-- The mode the driver reports at this step: an input (R183); a free value where the inputs do not list it. -/
def State.driverMode (s : State) (id : Byte) : PowerMode :=
  match s.env.modes.lookup id with
  | some m => m
  | none => Config.freePowerMode s.freeCount

/-- Answers a power mode. The counter of the free values moves on, so that two answers nobody states need not agree. -/
def State.answerMode (s : State) (m : PowerMode) : State :=
  { s with port := { s.port with rsp := .mode m }, freeCount := s.freeCount + 1 }

/-- One byte of a packet buffer, as a reader sees it: which track, whether the pending buffer, which index. -/
def State.bufferByte (s : State) (t : TrackSel) (pending : Bool) (i : Nat) : Byte :=
  match s.track? t with
  | some T => (if pending then T.pendingBuffer else T.transmitBuffer).read i
  | none => Memory.unlisted

/-- An operation on the registers of one track, which may find its cursor outside the buffer. Where there is no such
track, nothing happens: the steps of a track that does not exist are omitted (R197, R102; log entry 4). -/
def State.onTrack (s : State) (t : TrackSel) (f : Track → Except Fault Track) : Result :=
  match s.track? t with
  | none => .next s
  | some T =>
    match f T with
    | .ok T' => .next (s.setTrack t T')
    | .error e => .fault e

end Sys2Proof.Machine
end

