-- ==== Sys2Proof/Machine/Operands.lean ====
section
/-! DEFINITION. The operand forms of the block (30_encoding.md R92): the payload and its checksum, the current sample, the
threshold, the two time differences, the bit of a byte, and the truncation of a configuration value. -/

namespace Sys2Proof.Machine

/-- `bytes[0 .. count - 1]` of R141, from the operand registers `ARG_BYTES` and `ARG_COUNT` (R101). -/
def PortArgs.payload (a : PortArgs) : List Byte := (List.range a.argCount.toNat).map fun i => a.argBytes.getD i 0

/-- The checksum unit: the XOR of all payload bytes, starting from 0x00 (R143). -/
def xorAll (bs : List Byte) : Byte := bs.foldl (fun a b => a ^^^ b) 0x00

/-- `draw current()`: an unsigned `CUR_W`-bit sample (R8, R226). -/
def State.drawCurrent (s : State) : Nat := s.env.current % 2 ^ s.par.curW

/-- `mA2raw(cfg.ackLimit)`, "taken modulo 2^CUR_W" (R156). -/
def State.thresholdDelta (s : State) : Nat := Config.mA2raw s.cfg.ackLimit % 2 ^ s.par.curW

/-- `T.transmitBuffer[T.bytesSent] & BITMASK[k]` is not zero (R87, R116). The spec gives a cursor past the last cell no
meaning (R63). -/
def Track.bitAt (maxPacketSize : Nat) (T : Track) (k : Fin 9) : Except Fault Bool :=
  if T.bytesSent.toNat ≤ maxPacketSize then
    .ok ((T.transmitBuffer.read T.bytesSent.toNat &&& bitMask k) != 0)
  else .error (.bufferIndexOutside T.bytesSent.toNat)

/-- A configuration value cut to one bit (R186). -/
def truncFlag (v : BitVec 32) : Bool := v.getLsbD 0

/-- A configuration value cut to `CUR_W` bits (R186). -/
def truncCurrent (curW : Nat) (v : BitVec 32) : Nat := v.toNat % 2 ^ curW

/-- The hint of `poll` for the programming track's drivers (R187). -/
def State.overloadHint (s : State) (ackWindow : Bool) : Bool :=
  ackWindow && !s.cfg.progTrackSyncMain && !s.cfg.progTrackBoosted

end Sys2Proof.Machine
end

