-- ==== Sys2Proof/Machine/Flags.lean ====
section
/-! DEFINITION. The three status flags (10_state.md R32) and every write of them: no arithmetic operation sets a flag, and
each flag is set and cleared only by the operations named here. Beside them the tests that read them. -/

namespace Sys2Proof.Machine

/-- `T.packetPending <- 1` (R141). -/
def Track.occupySlot (T : Track) : Track := { T with packetPending := true }

/-- `T.packetPending <- 0` (R120). -/
def Track.freeSlot (T : Track) : Track := { T with packetPending := false }

/-- `S.ackPending <- 1`, `S.ackDetected <- 0` (R157). -/
def AckSession.openFlags (S : AckSession) : AckSession := { S with ackDetected := false, ackPending := true }

/-- `S.ackPending <- 0` with no pulse found (R159). -/
def AckSession.closeNoAck (S : AckSession) : AckSession := { S with ackPending := false }

/-- `S.ackDetected <- 1`, `S.ackPending <- 0` (R162). -/
def AckSession.closeAck (S : AckSession) : AckSession := { S with ackDetected := true, ackPending := false }

/-- The result `getAck` reads from the two flags, pending first (R165). -/
def AckSession.result (S : AckSession) : AckResult :=
  if S.ackPending then .pending else if S.ackDetected then .ack else .noAck

/-- A pulse is in progress: "exactly when `ackPulseStart != 0`" (R36). -/
def AckSession.inPulse (S : AckSession) : Bool := S.ackPulseStart != 0

/-- The sample exceeds the threshold, strictly (R160). -/
def AckSession.over (S : AckSession) (c : Nat) : Bool := decide (S.ackThreshold < c)

/-- The duration lies in the acceptance window, both ends included (R162). -/
def CfgRegs.inWindow (g : CfgRegs) (d : Time) : Bool :=
  decide (g.minAckPulseDuration.toNat ≤ d.toNat) && decide (d.toNat ≤ g.maxAckPulseDuration.toNat)

/-- The timeout test of R159: strictly more than six filler loads. -/
def Track.timedOut (T : Track) : Bool := decide (ackTimeoutResets < T.sentResetsSincePacket.toNat)

end Sys2Proof.Machine
end

