-- ==== Sys2Proof/Machine/Encoder.lean ====
section
/-! DEFINITION. The bit and byte encoder and the packet boundary (40_encoder.md), and the meanings of the internal steps
`level`, `step`, `advance`, `packetBoundary` and of the rows of formats WAVE, LEVEL, BITMASK and FILLER, each of which is
one use the encoder makes of a constant table. Everything here touches the registers of one track only. -/

namespace Sys2Proof.Machine

/-- `T.state <- NEXT[T.state]` (R112). -/
def Track.step (T : Track) : Track := { T with state := nextWave T.state }

/-- Giving a bit its wave state: a '1' is `MID_1` (R114), a '0' is `HIGH_0` (R115). -/
def Track.giveBit (T : Track) (b : Bool) : Track := { T with state := if b then .mid1 else .high0 }

/-- Looking the bit at index `k` of the current byte up and giving it its wave state (R87, R116). -/
def Track.resolveBit (maxPacketSize : Nat) (k : Fin 9) (T : Track) : Except Fault Track :=
  match T.bitAt maxPacketSize k with
  | .ok b => .ok (T.giveBit b)
  | .error e => .error e

/-- Case (a) of the boundary, repeat (R119). -/
def Track.repeatCase (T : Track) : Track := { T with transmitRepeats := T.transmitRepeats - 1 }

/-- Case (b), take the pending packet: the whole buffer is copied (R120). -/
def Track.pendingCase (maxPacketSize : Nat) (T : Track) : Track :=
  { T.freeSlot with
    transmitBuffer := Memory.copy T.transmitBuffer T.pendingBuffer (maxPacketSize + 1)
    transmitLength := T.pendingLength
    transmitRepeats := T.pendingRepeats
    sentResetsSincePacket := 0 }

/-- The counter of filler loads, saturating (R121). -/
def countReset (n : BitVec 8) : BitVec 8 := if n.toNat < resetsCap then n + 1 else n

/-- Case (c), filler with the bytes `F` (R121). -/
def Track.loadFiller (F : List Byte) (T : Track) : Track :=
  { T with
    transmitBuffer := T.transmitBuffer.writeBytes 0 F
    transmitLength := BitVec.ofNat 8 fillerLen
    transmitRepeats := 0
    sentResetsSincePacket := countReset T.sentResetsSincePacket }

/-- Case (c) with the track's own filler (R121). -/
def Track.fillerCase (p : Params) (T : Track) : Track := T.loadFiller (fillerBytes p T.isMainTrack)

/-- The choice of the next packet "by priority": repeat, pending, filler (R118). -/
def Track.choosePacket (p : Params) (T : Track) : Track :=
  if T.transmitRepeats ≠ 0 then T.repeatCase
  else if T.packetPending then T.pendingCase p.maxPacketSize
  else T.fillerCase p

/-- `packetBoundary(T)` (R118). -/
def Track.packetBoundary (p : Params) (T : Track) : Track :=
  Track.choosePacket p { T with bytesSent := 0, remainingPreambles := T.requiredPreambles }

/-- The end of a packet: `bytesSent` reaches `transmitLength` (R118). -/
def Track.packetEnd (T : Track) : Bool := decide (T.transmitLength.toNat ≤ T.bytesSent.toNat)

/-- The byte cursor moves to the next byte, and over the packet boundary (R117, R118). -/
def Track.nextByte (p : Params) (T : Track) : Track :=
  let T1 := { T with bitsSent := 0, bytesSent := T.bytesSent + 1 }
  if T1.packetEnd then T1.packetBoundary p else T1

/-- The bit cursor moves, with carry into the byte cursor after nine bits (R116, R117). -/
def Track.moveCursor (p : Params) (T : Track) : Track :=
  if h : T.bitsSent.val + 1 < 9 then { T with bitsSent := ⟨T.bitsSent.val + 1, h⟩ }
  else T.nextByte p

/-- One preamble bit: a '1', the byte cursor untouched (R116). -/
def Track.preambleBit (T : Track) : Track :=
  { T.giveBit true with remainingPreambles := T.remainingPreambles - 1 }

/-- `advance(T)`: resolve the next bit (R116). -/
def Track.advance (p : Params) (T : Track) : Except Fault Track :=
  if T.remainingPreambles ≠ 0 then .ok T.preambleBit
  else
    match T.resolveBit p.maxPacketSize T.bitsSent with
    | .ok T' => .ok (T'.moveCursor p)
    | .error e => .error e

/-- Step 5 of the tick for one track: resolve the next bit where the new state is `PENDING` (R196). -/
def Track.resolve (p : Params) (T : Track) : Except Fault Track :=
  if T.state = .pending then T.advance p else .ok T

/-- A wave row applied to a track: the level of the row is asserted, the state becomes the row's next state (R82, R83), and
where that is `PENDING` the next bit is resolved in the same tick (R84, R196 step 5). -/
def State.waveRow (s : State) (w : Wave) (t : TrackSel) : Result :=
  match s.track? t with
  | none => .next s
  | some T =>
    match Track.resolve s.par { T with state := nextWave w } with
    | .ok T' => .next ((s.setSignal t (levelOf w)).setTrack t T')
    | .error e => .fault e

/-- A level row on a track: `setSignal(level)` (R94); nothing where the track does not exist. -/
def State.levelRow (s : State) (l : Level) (t : TrackSel) : State :=
  match s.track? t with
  | none => s
  | some _ => s.setSignal t l

/-- A mask row on a track: the bit of the current byte at this index gets its wave state (R87). -/
def State.maskRow (s : State) (k : Fin 9) (t : TrackSel) : Result :=
  s.onTrack t (Track.resolveBit s.par.maxPacketSize k)

/-- START (R81 to R83). -/
def execWaveStart (t : TrackSel) (s : State) : Result := s.waveRow .start t
/-- MID_1 (R81 to R83). -/
def execWaveMid1 (t : TrackSel) (s : State) : Result := s.waveRow .mid1 t
/-- HIGH_0 (R81 to R83). -/
def execWaveHigh0 (t : TrackSel) (s : State) : Result := s.waveRow .high0 t
/-- MID_0 (R81 to R83). -/
def execWaveMid0 (t : TrackSel) (s : State) : Result := s.waveRow .mid0 t
/-- LOW_0 (R81 to R83). -/
def execWaveLow0 (t : TrackSel) (s : State) : Result := s.waveRow .low0 t
/-- PENDING (R81 to R83): the sentinel's own row, never used between ticks. -/
def execWavePending (t : TrackSel) (s : State) : Result := s.waveRow .pending t

/-- `level(T)` (R111): answers the level, writes nothing of the track. -/
def execLevel (t : TrackSel) (s : State) : Result :=
  match s.track? t with
  | none => .next s
  | some T => .next (s.respond (.level (levelOf T.state)))

/-- `step(T)` (R112). -/
def execStep (t : TrackSel) (s : State) : Result := s.onTrack t fun T => .ok T.step

/-- `advance(T)` (R116). -/
def execAdvance (t : TrackSel) (s : State) : Result := s.onTrack t (Track.advance s.par)

/-- `packetBoundary(T)` (R118). -/
def execPacketBoundary (t : TrackSel) (s : State) : Result :=
  s.onTrack t fun T => .ok (T.packetBoundary s.par)

/-- LEVEL_LOW (R94). -/
def execLevelLow (t : TrackSel) (s : State) : Result := .next (s.levelRow .low t)
/-- LEVEL_HIGH (R94). -/
def execLevelHigh (t : TrackSel) (s : State) : Result := .next (s.levelRow .high t)

/-- BITMASK_0: the framing bit (R87). -/
def execBitmask0 (t : TrackSel) (s : State) : Result := s.maskRow 0 t
/-- BITMASK_1: data bit 7 (R87). -/
def execBitmask1 (t : TrackSel) (s : State) : Result := s.maskRow 1 t
/-- BITMASK_2: data bit 6 (R87). -/
def execBitmask2 (t : TrackSel) (s : State) : Result := s.maskRow 2 t
/-- BITMASK_3: data bit 5 (R87). -/
def execBitmask3 (t : TrackSel) (s : State) : Result := s.maskRow 3 t
/-- BITMASK_4: data bit 4 (R87). -/
def execBitmask4 (t : TrackSel) (s : State) : Result := s.maskRow 4 t
/-- BITMASK_5: data bit 3 (R87). -/
def execBitmask5 (t : TrackSel) (s : State) : Result := s.maskRow 5 t
/-- BITMASK_6: data bit 2 (R87). -/
def execBitmask6 (t : TrackSel) (s : State) : Result := s.maskRow 6 t
/-- BITMASK_7: data bit 1 (R87). -/
def execBitmask7 (t : TrackSel) (s : State) : Result := s.maskRow 7 t
/-- BITMASK_8: data bit 0 (R87). -/
def execBitmask8 (t : TrackSel) (s : State) : Result := s.maskRow 8 t

/-- IDLE_PACKET: the main track's filler is loaded (R91, R121). -/
def execIdlePacket (s : State) : Result := s.onTrack .main fun T => .ok (T.loadFiller s.par.idlePacket)
/-- RESET_PACKET: the programming track's filler is loaded (R91, R121). -/
def execResetPacket (s : State) : Result := s.onTrack .prog fun T => .ok (T.loadFiller s.par.resetPacket)

end Sys2Proof.Machine
end

