-- ==== Sys2Proof/Machine/Scheduler.lean ====
section
/-! DEFINITION. The producer side of the pending slot (41_packet_scheduler.md): `schedulePacket`, its size test and its
hold. -/

namespace Sys2Proof.Machine

/-- Everything after the hold (R141): payload and checksum into the pending buffer, length, repeats, flag, counter. -/
def Track.storePacket (payload : List Byte) (repeats : BitVec 8) (T : Track) : Track :=
  { T.occupySlot with
    pendingBuffer := T.pendingBuffer.writeBytes 0 (payload ++ [xorAll payload])
    pendingLength := BitVec.ofNat 8 (payload.length + 1)
    pendingRepeats := repeats
    sentResetsSincePacket := 0 }

/-- The size test of R148: the payload count exceeds the maximum. -/
def State.oversized (s : State) : Bool := decide (s.par.maxPacketSize < s.port.args.argCount.toNat)

/-- `schedulePacket(T, bytes, count, repeats)` (R141). A track that does not exist: "the command does nothing" (R102). The
size test comes first (R148). While the slot is occupied the operation has no effect but `BUSY` = 1: it is held for that
slot, and the control context tries it again at its next turn (R142, log entry 14). -/
def execSchedulePacket (trk : TrackSel) (s : State) : Result :=
  match s.track? trk with
  | none => .next s
  | some T =>
    if s.oversized then .next s
    else if T.packetPending then .next (s.holdFor trk)
    else .next (s.setTrack trk (T.storePacket s.port.args.payload s.port.args.argRepeats))

end Sys2Proof.Machine
end

