-- ==== Sys2Proof/Machine/Detector.lean ====
section
/-! DEFINITION. The current-pulse acknowledgment detector (42_ack_detector.md): baseline, arming, the detector tick, the
result, and the rows of format ACKRESULT. -/

namespace Sys2Proof.Machine

/-- `setAckBaseline()` (R156); nothing without a programming track (R166). -/
def execSetAckBaseline (_trk : TrackSel) (s : State) : Result :=
  match s.prog with
  | none => .next s
  | some p =>
    let c := s.drawCurrent
    .next (s.setSession { p.session with ackBaseline := c, ackThreshold := c + s.thresholdDelta })

/-- The session just armed at millisecond time `now` (R157). -/
def AckSession.arm (now : Time) (S : AckSession) : AckSession :=
  { S.openFlags with ackMaxCurrent := 0, ackPulseStart := 0, ackPulseDuration := 0, ackCheckStart := now }

/-- `setAckPending()` (R157); nothing without a programming track (R166). -/
def execSetAckPending (_trk : TrackSel) (s : State) : Result :=
  match s.prog with
  | none => .next s
  | some p => .next (s.setSession (p.session.arm s.env.nowMs))

/-- `getAck()` (R165): the code goes to the response register; without a programming track it is `NO_ACK` (R166). -/
def execGetAck (_trk : TrackSel) (s : State) : Result :=
  match s.prog with
  | none => .next (s.respond (.ack (ackCode .noAck)))
  | some p => .next (s.respond (.ack (ackCode p.session.result)))

/-- Step 1 of the detector tick: the session ends by timeout (R159). -/
def AckSession.timeout (now : Time) (S : AckSession) : AckSession :=
  { S.closeNoAck with ackCheckDuration := sub32 now S.ackCheckStart }

/-- Step 2: the running maximum (R158). -/
def AckSession.sample (c : Nat) (S : AckSession) : AckSession :=
  if S.ackMaxCurrent < c then { S with ackMaxCurrent := c } else S

/-- Step 3: the rising edge (R160). -/
def AckSession.risingEdge (nowUs : Time) (S : AckSession) : AckSession :=
  if S.inPulse then S else { S with ackPulseStart := nowUs }

/-- Step 4: the duration of the pulse at its trailing edge (R161). -/
def AckSession.measure (nowUs : Time) (S : AckSession) : AckSession :=
  { S with ackPulseDuration := sub32 nowUs S.ackPulseStart }

/-- A qualifying pulse (R162). -/
def AckSession.accept (nowMs : Time) (S : AckSession) : AckSession :=
  { S.closeAck with ackCheckDuration := sub32 nowMs S.ackCheckStart }

/-- A rejected pulse (R164). -/
def AckSession.discard (S : AckSession) : AckSession := { S with ackPulseStart := 0 }

/-- `sampleTick()` on the programming side, with the sample `c` and the two clocks this step may draw (R158). -/
def Prog.sampleTick (g : CfgRegs) (c : Nat) (nowUs nowMs : Time) (p : Prog) : Prog :=
  if p.track.timedOut then { p with session := p.session.timeout nowMs }
  else
    let S := p.session.sample c
    if S.over c then { p with session := S.risingEdge nowUs }
    else if S.inPulse then
      let S' := S.measure nowUs
      if g.inWindow S'.ackPulseDuration then
        { track := { p.track with transmitRepeats := 0 }, session := S'.accept nowMs }
      else { p with session := S'.discard }
    else { p with session := S }

/-- `sampleTick()` with the inputs of this step. -/
def State.detect (s : State) (p : Prog) : Prog := p.sampleTick s.cfg s.drawCurrent s.env.nowUs s.env.nowMs

/-- `sampleTick()` (R158). -/
def execSampleTick (s : State) : Result :=
  match s.prog with
  | none => .next s
  | some p => .next { s with prog := some (s.detect p) }

/-- ACKRESULT_NO_ACK: the response `NO_ACK` (R93). -/
def execAckResultNoAck (s : State) : Result := .next (s.respond (.ack (ackCode .noAck)))
/-- ACKRESULT_ACK: the response `ACK` (R93). -/
def execAckResultAck (s : State) : Result := .next (s.respond (.ack (ackCode .ack)))
/-- ACKRESULT_PENDING: the response `PENDING` (R93). -/
def execAckResultPending (s : State) : Result := .next (s.respond (.ack (ackCode .pending)))

end Sys2Proof.Machine
end

