-- ==== Sys2Proof/Machine/Coordinator.lean ====
section
/-! DEFINITION. The track coordinator (43_track_coordinator.md): power modes over the driver chains, the configuration
registers and their rows of format CFGREG, and `poll`. -/

namespace Sys2Proof.Machine

/-- `setPowerMode(T, mode)` (R182): every driver of the chain, in order; a track that does not exist: nothing (R102). -/
def execSetPowerMode (trk : TrackSel) (s : State) : Result :=
  match s.track? trk with
  | none => .next s
  | some _ => .next (s.emitAll ((s.chain trk).ids.map fun d => .setPowerMode d s.port.args.argMode))

/-- `getPowerMode(T)` (R183): the primary driver's answer; a track that does not exist: an unspecified mode (R102). -/
def execGetPowerMode (trk : TrackSel) (s : State) : Result :=
  match s.track? trk with
  | none => .next (s.answerMode (Config.freePowerMode s.freeCount))
  | some _ => .next (s.answerMode (s.driverMode (s.chain trk).primary))

/-- `setPowerModeId(id, mode)` (R184): the driver of that id, if some driver has it. -/
def execSetPowerModeId (_trk : TrackSel) (s : State) : Result :=
  if s.port.args.argId ∈ s.drivers then .next (s.emit (.setPowerMode s.port.args.argId s.port.args.argMode))
  else .next s

/-- `getPowerModeId(id)` (R185): that driver's answer; an id that no driver has: any value. -/
def execGetPowerModeId (_trk : TrackSel) (s : State) : Result :=
  if s.port.args.argId ∈ s.drivers then .next (s.answerMode (s.driverMode s.port.args.argId))
  else .next (s.answerMode (Config.freePowerMode s.freeCount))

/-- The commands of one `poll` (R187): the main chain with hint 0, then the programming chain with the hint. -/
def State.pollEvents (s : State) (ackWindow : Bool) : List Event :=
  s.par.chainMain.ids.map (fun d => .checkPowerOverload d false)
    ++ (if s.hasProg then s.par.chainProg.ids.map (fun d => .checkPowerOverload d (s.overloadHint ackWindow)) else [])

/-- `poll(ackWindow)` (R187). -/
def execPoll (_trk : TrackSel) (s : State) : Result := .next (s.emitAll (s.pollEvents s.port.args.argFlag))

/-- `cfg.<register numbered reg> <- value truncated to the register's width` (R186); above 4 nothing. -/
def CfgRegs.write (curW : Nat) (g : CfgRegs) (reg : Nat) (v : BitVec 32) : CfgRegs :=
  match reg with
  | 0 => { g with progTrackSyncMain := truncFlag v }
  | 1 => { g with progTrackBoosted := truncFlag v }
  | 2 => { g with ackLimit := truncCurrent curW v }
  | 3 => { g with minAckPulseDuration := v }
  | 4 => { g with maxAckPulseDuration := v }
  | _ => g

/-- Writing the configuration register of that number with the value in `ARG_VALUE` (R186). -/
def State.writeConfig (s : State) (reg : Nat) : State :=
  { s with cfg := s.cfg.write s.par.curW reg s.port.args.argValue }

/-- `setConfig(reg, value)` (R186). -/
def execSetConfig (_trk : TrackSel) (s : State) : Result := .next (s.writeConfig s.port.args.argReg.toNat)

/-- CFGREG_progTrackSyncMain: register 0 of `setConfig` (R40, R186). -/
def execCfgProgTrackSyncMain (s : State) : Result := .next (s.writeConfig 0)
/-- CFGREG_progTrackBoosted: register 1 (R40, R186). -/
def execCfgProgTrackBoosted (s : State) : Result := .next (s.writeConfig 1)
/-- CFGREG_ackLimit: register 2 (R40, R186). -/
def execCfgAckLimit (s : State) : Result := .next (s.writeConfig 2)
/-- CFGREG_minAckPulseDuration: register 3 (R40, R186). -/
def execCfgMinAckPulseDuration (s : State) : Result := .next (s.writeConfig 3)
/-- CFGREG_maxAckPulseDuration: register 4 (R40, R186). -/
def execCfgMaxAckPulseDuration (s : State) : Result := .next (s.writeConfig 4)
/-- CFGREG_RESERVED_5: "the command does nothing" (R102, R186). -/
def execCfgReserved5 (s : State) : Result := .next (s.writeConfig 5)
/-- CFGREG_RESERVED_6: "the command does nothing" (R102, R186). -/
def execCfgReserved6 (s : State) : Result := .next (s.writeConfig 6)
/-- CFGREG_RESERVED_7: "the command does nothing" (R102, R186). -/
def execCfgReserved7 (s : State) : Result := .next (s.writeConfig 7)

end Sys2Proof.Machine
end

