-- ==== Sys2Proof/Machine/Dispatcher.lean ====
section
/-! DEFINITION. The dual-track dispatcher (44_dispatcher.md): the tick, in its two-track form and in its main-track-only
form. -/

namespace Sys2Proof.Machine

/-- Steps 4 and 5 of the tick on the main track, after the levels have been asserted in `s` (R196, R197). -/
def State.mainTick (s : State) : Result := s.onTrack .main fun T => T.step.resolve s.par

/-- Steps 4 to 6 of the tick on the programming side: the table transition; then `advance` where the new state is
`PENDING`, otherwise the detector where a session is open, never both (R196). -/
def State.progTick (s : State) (p : Prog) : Except Fault Prog :=
  let p1 := { p with track := p.track.step }
  if p1.track.state = .pending then
    match p1.track.advance s.par with
    | .ok T => .ok { p1 with track := T }
    | .error e => .error e
  else if p1.session.ackPending then .ok (s.detect p1)
  else .ok p1

/-- The programming output's level: "the same way unless joined" (R196 step 2, R199). -/
def State.progLevel (s : State) (p : Prog) : Level :=
  if s.cfg.progTrackSyncMain then levelOf s.main.state else levelOf p.track.state

/-- `tick` without a programming track (R197). -/
def State.tickMain (s : State) : Result := (s.setSignal .main (levelOf s.main.state)).mainTick

/-- `tick` with both tracks (R196): both levels are decided and asserted, main first, before anything is advanced
(R198). -/
def State.tickBoth (s : State) (p : Prog) : Result :=
  let s1 := (s.setSignal .main (levelOf s.main.state)).setSignal .prog (s.progLevel p)
  match s1.mainTick with
  | .next s2 =>
    match s2.progTick p with
    | .ok p' => .next { s2 with prog := some p' }
    | .error e => .fault e
  | .fault e => .fault e
  | .refused r => .refused r

/-- `tick` (R196); where there is no programming track its steps are omitted (R197). -/
def execTick (s : State) : Result :=
  match s.prog with
  | none => s.tickMain
  | some p => s.tickBoth p

/-- `tick_main_only` (R197). -/
def execTickMainOnly (s : State) : Result := s.tickMain

end Sys2Proof.Machine
end

