-- ==== Sys2Proof/Machine/Reserved.lean ====
section
/-! DEFINITION. The reserved rows: command words that do nothing (30_encoding.md R102), and the three codes that are no
values of their types (R85, R93). -/

namespace Sys2Proof.Machine

/-- WAVE_RESERVED_6 (R85): refused. -/
def execWaveReserved6 (_s : State) : Result := .refused (.reservedWaveCode 6)
/-- WAVE_RESERVED_7 (R85): refused. -/
def execWaveReserved7 (_s : State) : Result := .refused (.reservedWaveCode 7)
/-- ACKRESULT_RESERVED_3 (R93): refused. -/
def execAckResultReserved3 (_s : State) : Result := .refused .reservedAckResult

/-- "reserved: the command does nothing, changes no state, emits nothing" (R102). -/
def State.doNothing (s : State) : Result := .next s

/-- OP_RESERVED_0 (R102). -/
def execOpReserved0 (_low : BitVec 4) (s : State) : Result := s.doNothing
/-- OP_RESERVED_B (R102). -/
def execOpReservedB (_low : BitVec 4) (s : State) : Result := s.doNothing
/-- OP_RESERVED_C (R102). -/
def execOpReservedC (_low : BitVec 4) (s : State) : Result := s.doNothing
/-- OP_RESERVED_D (R102). -/
def execOpReservedD (_low : BitVec 4) (s : State) : Result := s.doNothing
/-- OP_RESERVED_E (R102). -/
def execOpReservedE (_low : BitVec 4) (s : State) : Result := s.doNothing
/-- OP_RESERVED_F (R102). -/
def execOpReservedF (_low : BitVec 4) (s : State) : Result := s.doNothing
/-- OP_RESERVED_LOWBITS (R102): `CMD[2:0]` not zero, whatever the operation code. -/
def execOpReservedLowbits (_cmd : BitVec 8) (s : State) : Result := s.doNothing

end Sys2Proof.Machine
end

