-- ==== Sys2Proof/Machine/Dispatch.lean ====
section
/-! DEFINITION. The dispatch of an instruction to its meaning: one arm per constructor of Instr. -/

namespace Sys2Proof.Machine

def exec (i : Instr) (s : State) : Host.Outcome State Fault Refusal :=
  match i with
  | .waveStart t => Sys2Proof.Machine.execWaveStart t s
  | .waveMid1 t => Sys2Proof.Machine.execWaveMid1 t s
  | .waveHigh0 t => Sys2Proof.Machine.execWaveHigh0 t s
  | .waveMid0 t => Sys2Proof.Machine.execWaveMid0 t s
  | .waveLow0 t => Sys2Proof.Machine.execWaveLow0 t s
  | .wavePending t => Sys2Proof.Machine.execWavePending t s
  | .waveReserved6 => Sys2Proof.Machine.execWaveReserved6 s
  | .waveReserved7 => Sys2Proof.Machine.execWaveReserved7 s
  | .schedulePacket trk => Sys2Proof.Machine.execSchedulePacket trk s
  | .setAckBaseline trk => Sys2Proof.Machine.execSetAckBaseline trk s
  | .setAckPending trk => Sys2Proof.Machine.execSetAckPending trk s
  | .getAck trk => Sys2Proof.Machine.execGetAck trk s
  | .setPowerMode trk => Sys2Proof.Machine.execSetPowerMode trk s
  | .getPowerMode trk => Sys2Proof.Machine.execGetPowerMode trk s
  | .setPowerModeId trk => Sys2Proof.Machine.execSetPowerModeId trk s
  | .getPowerModeId trk => Sys2Proof.Machine.execGetPowerModeId trk s
  | .poll trk => Sys2Proof.Machine.execPoll trk s
  | .setConfig trk => Sys2Proof.Machine.execSetConfig trk s
  | .opReserved0 low => Sys2Proof.Machine.execOpReserved0 low s
  | .opReservedB low => Sys2Proof.Machine.execOpReservedB low s
  | .opReservedC low => Sys2Proof.Machine.execOpReservedC low s
  | .opReservedD low => Sys2Proof.Machine.execOpReservedD low s
  | .opReservedE low => Sys2Proof.Machine.execOpReservedE low s
  | .opReservedF low => Sys2Proof.Machine.execOpReservedF low s
  | .opReservedLowbits cmd => Sys2Proof.Machine.execOpReservedLowbits cmd s
  | .tick => Sys2Proof.Machine.execTick s
  | .tickMainOnly => Sys2Proof.Machine.execTickMainOnly s
  | .level t => Sys2Proof.Machine.execLevel t s
  | .step t => Sys2Proof.Machine.execStep t s
  | .advance t => Sys2Proof.Machine.execAdvance t s
  | .packetBoundary t => Sys2Proof.Machine.execPacketBoundary t s
  | .sampleTick => Sys2Proof.Machine.execSampleTick s
  | .ackResultNoAck => Sys2Proof.Machine.execAckResultNoAck s
  | .ackResultAck => Sys2Proof.Machine.execAckResultAck s
  | .ackResultPending => Sys2Proof.Machine.execAckResultPending s
  | .ackResultReserved3 => Sys2Proof.Machine.execAckResultReserved3 s
  | .levelLow t => Sys2Proof.Machine.execLevelLow t s
  | .levelHigh t => Sys2Proof.Machine.execLevelHigh t s
  | .bitmask0 t => Sys2Proof.Machine.execBitmask0 t s
  | .bitmask1 t => Sys2Proof.Machine.execBitmask1 t s
  | .bitmask2 t => Sys2Proof.Machine.execBitmask2 t s
  | .bitmask3 t => Sys2Proof.Machine.execBitmask3 t s
  | .bitmask4 t => Sys2Proof.Machine.execBitmask4 t s
  | .bitmask5 t => Sys2Proof.Machine.execBitmask5 t s
  | .bitmask6 t => Sys2Proof.Machine.execBitmask6 t s
  | .bitmask7 t => Sys2Proof.Machine.execBitmask7 t s
  | .bitmask8 t => Sys2Proof.Machine.execBitmask8 t s
  | .idlePacket => Sys2Proof.Machine.execIdlePacket s
  | .resetPacket => Sys2Proof.Machine.execResetPacket s
  | .cfgProgTrackSyncMain => Sys2Proof.Machine.execCfgProgTrackSyncMain s
  | .cfgProgTrackBoosted => Sys2Proof.Machine.execCfgProgTrackBoosted s
  | .cfgAckLimit => Sys2Proof.Machine.execCfgAckLimit s
  | .cfgMinAckPulseDuration => Sys2Proof.Machine.execCfgMinAckPulseDuration s
  | .cfgMaxAckPulseDuration => Sys2Proof.Machine.execCfgMaxAckPulseDuration s
  | .cfgReserved5 => Sys2Proof.Machine.execCfgReserved5 s
  | .cfgReserved6 => Sys2Proof.Machine.execCfgReserved6 s
  | .cfgReserved7 => Sys2Proof.Machine.execCfgReserved7 s

end Sys2Proof.Machine
end

