-- ==== Sys2Proof/Decode.lean ====
section
/-! DEFINITION. The decoder of every code space of 30_encoding.md, total and refusing by name, and after it the encoder,
written from the same tables. The port's decoder refuses nothing: each of the 256 command words is a row (R101, R102). -/

namespace Sys2Proof

/-- How many bits a code of the space has (R81, R101, R211, R93, R94, R87, R91, R40). -/
def Space.width : Space → Nat
  | .wave => 3
  | .port => 8
  | .strobe => 1
  | .ackResult => 2
  | .level => 1
  | .bitmask => 8
  | .filler => 24
  | .cfgReg => 3

/-- `CMD[3]`: 0 = main track, 1 = programming track (R101). -/
def TrackSel.ofBit : Bool → TrackSel
  | false => .main
  | true => .prog

/-- The command word of the host port (R101, R102): `CMD[7:4]` chooses the operation, `CMD[3]` the track, `CMD[2:0]` must
be zero. The reserved operation codes come first: with them the low bits are not looked at. -/
def decodePort (cmd : BitVec 8) : Instr :=
  let trk := TrackSel.ofBit (cmd.getLsbD 3)
  let low := cmd.extractLsb' 0 4
  match (cmd.extractLsb' 4 4).toNat with
  | 0x0 => .opReserved0 low
  | 0xB => .opReservedB low
  | 0xC => .opReservedC low
  | 0xD => .opReservedD low
  | 0xE => .opReservedE low
  | 0xF => .opReservedF low
  | op =>
    if cmd.extractLsb' 0 3 != 0#3 then .opReservedLowbits cmd
    else
      match op with
      | 0x1 => .schedulePacket trk
      | 0x2 => .setAckBaseline trk
      | 0x3 => .setAckPending trk
      | 0x4 => .getAck trk
      | 0x5 => .setPowerMode trk
      | 0x6 => .getPowerMode trk
      | 0x7 => .setPowerModeId trk
      | 0x8 => .getPowerModeId trk
      | 0x9 => .poll trk
      | _ => .setConfig trk

/-- The tick row the strobe runs: "Which variant runs is fixed by the parameter `HAS_PROG`" (R197). -/
def decodeStrobe (hasProg : Bool) : Instr := if hasProg then .tick else .tickMainOnly

/-- A code inside the width of its space, as a number. -/
def decodeIn (hasProg : Bool) (sp : Space) (w : BitVec 24) (t : TrackSel) : Except DecodeError Instr :=
  match sp with
  | .wave =>
    match w.toNat with
    | 0 => .ok (.waveStart t)
    | 1 => .ok (.waveMid1 t)
    | 2 => .ok (.waveHigh0 t)
    | 3 => .ok (.waveMid0 t)
    | 4 => .ok (.waveLow0 t)
    | 5 => .ok (.wavePending t)
    | _ => .error (.reservedWaveCode w)
  | .port => .ok (decodePort (w.extractLsb' 0 8))
  | .strobe => if w = 1 then .ok (decodeStrobe hasProg) else .error .noStrobe
  | .ackResult =>
    match w.toNat with
    | 0 => .ok .ackResultNoAck
    | 1 => .ok .ackResultAck
    | 2 => .ok .ackResultPending
    | _ => .error .reservedAckResult
  | .level => if w = 0 then .ok (.levelLow t) else .ok (.levelHigh t)
  | .bitmask =>
    match w.toNat with
    | 0x00 => .ok (.bitmask0 t)
    | 0x80 => .ok (.bitmask1 t)
    | 0x40 => .ok (.bitmask2 t)
    | 0x20 => .ok (.bitmask3 t)
    | 0x10 => .ok (.bitmask4 t)
    | 0x08 => .ok (.bitmask5 t)
    | 0x04 => .ok (.bitmask6 t)
    | 0x02 => .ok (.bitmask7 t)
    | 0x01 => .ok (.bitmask8 t)
    | _ => .error (.notAMaskEntry w)
  | .filler =>
    if w = 0xFF00FF#24 then .ok .idlePacket
    else if w = 0x000000#24 then .ok .resetPacket
    else .error (.notAFillerPacket w)
  | .cfgReg =>
    match w.toNat with
    | 0 => .ok .cfgProgTrackSyncMain
    | 1 => .ok .cfgProgTrackBoosted
    | 2 => .ok .cfgAckLimit
    | 3 => .ok .cfgMinAckPulseDuration
    | 4 => .ok .cfgMaxAckPulseDuration
    | 5 => .ok .cfgReserved5
    | 6 => .ok .cfgReserved6
    | _ => .ok .cfgReserved7

/-- The decoder: total on every code, refusing by name. -/
def decode (hasProg : Bool) (c : Code) : Except DecodeError Instr :=
  if c.word.toNat < 2 ^ c.space.width then decodeIn hasProg c.space c.word c.trk
  else .error (.wordTooWide c.space c.word)

/-- The command word with operation code `op` on track `trk`, low bits zero (R101). -/
def portWord (op : BitVec 4) (trk : TrackSel) : BitVec 24 :=
  (0#16 ++ op) ++ (match trk with | .main => 0x0#4 | .prog => 0x8#4)

/-- The code of an instruction; the five internal steps of a tick have none. The track of a row that carries no track
bit goes beside the word. -/
def encode : Instr → Option Code
  | .waveStart t => some ⟨.wave, 0, t⟩
  | .waveMid1 t => some ⟨.wave, 1, t⟩
  | .waveHigh0 t => some ⟨.wave, 2, t⟩
  | .waveMid0 t => some ⟨.wave, 3, t⟩
  | .waveLow0 t => some ⟨.wave, 4, t⟩
  | .wavePending t => some ⟨.wave, 5, t⟩
  | .waveReserved6 => some ⟨.wave, 6, .main⟩
  | .waveReserved7 => some ⟨.wave, 7, .main⟩
  | .schedulePacket trk => some ⟨.port, portWord 0x1 trk, .main⟩
  | .setAckBaseline trk => some ⟨.port, portWord 0x2 trk, .main⟩
  | .setAckPending trk => some ⟨.port, portWord 0x3 trk, .main⟩
  | .getAck trk => some ⟨.port, portWord 0x4 trk, .main⟩
  | .setPowerMode trk => some ⟨.port, portWord 0x5 trk, .main⟩
  | .getPowerMode trk => some ⟨.port, portWord 0x6 trk, .main⟩
  | .setPowerModeId trk => some ⟨.port, portWord 0x7 trk, .main⟩
  | .getPowerModeId trk => some ⟨.port, portWord 0x8 trk, .main⟩
  | .poll trk => some ⟨.port, portWord 0x9 trk, .main⟩
  | .setConfig trk => some ⟨.port, portWord 0xA trk, .main⟩
  | .opReserved0 low => some ⟨.port, 0x00000#20 ++ low, .main⟩
  | .opReservedB low => some ⟨.port, 0x0000B#20 ++ low, .main⟩
  | .opReservedC low => some ⟨.port, 0x0000C#20 ++ low, .main⟩
  | .opReservedD low => some ⟨.port, 0x0000D#20 ++ low, .main⟩
  | .opReservedE low => some ⟨.port, 0x0000E#20 ++ low, .main⟩
  | .opReservedF low => some ⟨.port, 0x0000F#20 ++ low, .main⟩
  | .opReservedLowbits cmd => some ⟨.port, 0#16 ++ cmd, .main⟩
  | .tick => some ⟨.strobe, 1, .main⟩
  | .tickMainOnly => some ⟨.strobe, 1, .main⟩
  | .level _ => none
  | .step _ => none
  | .advance _ => none
  | .packetBoundary _ => none
  | .sampleTick => none
  | .ackResultNoAck => some ⟨.ackResult, 0, .main⟩
  | .ackResultAck => some ⟨.ackResult, 1, .main⟩
  | .ackResultPending => some ⟨.ackResult, 2, .main⟩
  | .ackResultReserved3 => some ⟨.ackResult, 3, .main⟩
  | .levelLow t => some ⟨.level, 0, t⟩
  | .levelHigh t => some ⟨.level, 1, t⟩
  | .bitmask0 t => some ⟨.bitmask, 0x00, t⟩
  | .bitmask1 t => some ⟨.bitmask, 0x80, t⟩
  | .bitmask2 t => some ⟨.bitmask, 0x40, t⟩
  | .bitmask3 t => some ⟨.bitmask, 0x20, t⟩
  | .bitmask4 t => some ⟨.bitmask, 0x10, t⟩
  | .bitmask5 t => some ⟨.bitmask, 0x08, t⟩
  | .bitmask6 t => some ⟨.bitmask, 0x04, t⟩
  | .bitmask7 t => some ⟨.bitmask, 0x02, t⟩
  | .bitmask8 t => some ⟨.bitmask, 0x01, t⟩
  | .idlePacket => some ⟨.filler, 0xFF00FF#24, .main⟩
  | .resetPacket => some ⟨.filler, 0x000000#24, .main⟩
  | .cfgProgTrackSyncMain => some ⟨.cfgReg, 0, .main⟩
  | .cfgProgTrackBoosted => some ⟨.cfgReg, 1, .main⟩
  | .cfgAckLimit => some ⟨.cfgReg, 2, .main⟩
  | .cfgMinAckPulseDuration => some ⟨.cfgReg, 3, .main⟩
  | .cfgMaxAckPulseDuration => some ⟨.cfgReg, 4, .main⟩
  | .cfgReserved5 => some ⟨.cfgReg, 5, .main⟩
  | .cfgReserved6 => some ⟨.cfgReg, 6, .main⟩
  | .cfgReserved7 => some ⟨.cfgReg, 7, .main⟩

/-- The space a bare word of the opcode table is read in. The table's rows share words across formats and a bare word
carries no format, so the width decides, and a byte-wide word below 8 is read as a wave code, since it fits the three
bits of one (DESIGN CHOICE, log entry 3). Every other byte is a command of the port. -/
def tableSpace (nbits w : Nat) : Space :=
  match nbits with
  | 1 => .level
  | 2 => .ackResult
  | 3 => .wave
  | 24 => .filler
  | _ => if w < 8 then .wave else .port

/-- The bare table word as a code: operand bits zero, so the track is main. -/
def tableCode (nbits w : Nat) : Code := ⟨tableSpace nbits w, BitVec.ofNat 24 w, .main⟩

/-- What the decoder reads from a word numbered as spec/opcode_table.json numbers its bits. -/
def decodeTableWord (nbits w : Nat) : Option Instr :=
  if w < 2 ^ 24 then
    match decode true (tableCode nbits w) with
    | .ok i => some i
    | .error _ => none
  else none

end Sys2Proof
end

