-- ==== Sys2Proof/Machine/Fetch.lean ====
section
/-! DEFINITION. What one step runs: the turn that comes next, the inputs it presents, and the instruction its code decodes
to (20_memory.md R66, 60_exceptions.md R211, R220). -/

namespace Sys2Proof.Machine

/-- What the next turn asks for: a change of state without an instruction, an instruction to run (with a mark where it is
an operation of the control context, which is done only when it has not been held), or a code that is refused. -/
inductive Fetched where
  | quiet (s : State)
  | run (i : Instr) (s : State) (isCommand : Bool)
  | bad (e : DecodeError)
  deriving DecidableEq, Repr

/-- A turn begins: its inputs are presented and the commands of the step before are gone. -/
def State.beginTurn (s : State) (d : Draws) (rest : List Turn) : State :=
  { s with env := d, out := [], turns := rest }

/-- The host writes the operand registers and the command word (R101); nothing is held until it is tried. -/
def State.latchCommand (s : State) (a : PortArgs) : State :=
  { s with port := { s.port with args := a, waiting := none } }

/-- The inputs of a tick that are not listed: any value (R222, R226), read at the free counter. -/
def State.freeDraws (s : State) : Draws :=
  ⟨Config.freeCurrent s.freeCount, Config.freeNowUs s.freeCount, Config.freeNowMs s.freeCount, []⟩

/-- The timer goes on by itself when no turn is listed: a tick "is always enabled" (R211). -/
def State.beginFreeTick (s : State) : State :=
  { s with env := s.freeDraws, out := [], freeCount := s.freeCount + 1 }

/-- The code of the strobe input, high (R211). -/
def strobeCode : Code := ⟨.strobe, 1, .main⟩

/-- The code in the port's command word (R101). -/
def portCode (cmd : BitVec 8) : Code := ⟨.port, 0#16 ++ cmd, .main⟩

/-- Decodes a code and runs what it stands for in the state `t`. -/
def fetchCode (hasProg : Bool) (c : Code) (t : State) (isCommand : Bool) : Fetched :=
  match decode hasProg c with
  | .ok i => .run i t isCommand
  | .error e => .bad e

/-- The next turn. The control context issues the oldest of its operations; with none left it does nothing. -/
def fetch (s : State) : Fetched :=
  match s.turns with
  | [] => fetchCode s.hasProg strobeCode s.beginFreeTick false
  | .strobe d :: rest => fetchCode s.hasProg strobeCode (s.beginTurn d rest) false
  | .control d :: rest =>
    match s.ctl with
    | [] => .quiet (s.beginTurn d rest)
    | a :: _ => fetchCode s.hasProg (portCode a.cmd) ((s.beginTurn d rest).latchCommand a) true
  | .reset :: rest => .quiet { s with turns := rest }.resetBlock
  | .row c d :: rest => fetchCode s.hasProg c (s.beginTurn d rest) false

/-- An operation of the control context that has not been held is done; a held one is tried again (R142). -/
def State.retire (s : State) (isCommand : Bool) : State :=
  if isCommand && !s.busy then { s with ctl := s.ctl.tail } else s

/-- Retiring the outcome of an instruction. -/
def retireResult (isCommand : Bool) : Result → Result
  | .next s => .next (s.retire isCommand)
  | .fault e => .fault e
  | .refused r => .refused r

/-- The command `a` placed where the next step issues it, with the inputs `d`. -/
def State.placeCommand (s : State) (a : PortArgs) (d : Draws) : State :=
  { s with turns := .control d :: s.turns, ctl := a :: s.ctl }

/-- The row `c` placed where the next step applies it, with the inputs `d`. -/
def State.placeRow (s : State) (c : Code) (d : Draws) : State := { s with turns := .row c d :: s.turns }

/-- A table word placed where the next step fetches it: a command word goes to the port, any other row is applied by its
code. Operand registers and inputs stay as they are. -/
def State.placeTableWord (s : State) (nbits w : Nat) : State :=
  let c := tableCode nbits w
  match c.space with
  | .port => s.placeCommand { s.port.args with cmd := c.word.extractLsb' 0 8 } s.env
  | _ => s.placeRow c s.env

end Sys2Proof.Machine
end

