-- ==== Sys2Proof/Machine/Step.lean ====
section
/-! DEFINITION. One step of the machine: the next turn of one of the two agents. -/

namespace Sys2Proof.Machine

/-- One atomic step (R66). -/
def step (s : State) : Host.Outcome State Fault Refusal :=
  match fetch s with
  | .quiet t => .next t
  | .run i t isCommand => retireResult isCommand (exec i t)
  | .bad e => .refused (.undecodable e)

/-- `s` with the table word `w` placed where `step` fetches its next instruction. -/
def State.withFetchWord (s : State) (nbits w : Nat) : State := s.placeTableWord nbits w

end Sys2Proof.Machine
end

