-- ==== Sys2Proof/Safety.lean ====
section
/-! DEFINITION. What holds between steps (10_state.md R44, R21), in the words the statements use: the bounds of a track, of
the session and of the registers, and the two readings of a run, the bits a track resolves and its ticks. -/

namespace Sys2Proof.Machine

/-- A packet of `len` bytes in a buffer ends in the XOR of the bytes before it (R44 bounds 6 and 7, R88). -/
abbrev Memory.isPacket (m : Memory) (len : Nat) : Prop := m.read (len - 1) = xorAll (m.bytes (len - 1))

/-- A buffer of `maxPacketSize + 1` cells in canonical form (R42). -/
abbrev Memory.isBuffer (m : Memory) (maxPacketSize : Nat) : Prop := m.wf = true ∧ m.below (maxPacketSize + 1) = true

/-- The bounds 1 to 7 of R44 for one track, with its two constant registers (R21) and its two buffers. -/
structure Track.Inv (p : Params) (isMain : Bool) (T : Track) : Prop where
  isMainTrack : T.isMainTrack = isMain
  required : T.requiredPreambles.toNat = preambleBits p isMain + 1
  notPending : T.state ≠ .pending
  lengthPos : 1 ≤ T.transmitLength.toNat
  lengthLe : T.transmitLength.toNat ≤ p.maxPacketSize + 1
  cursor : T.bytesSent.toNat < T.transmitLength.toNat
  preambles : T.remainingPreambles.toNat ≤ T.requiredPreambles.toNat
  resets : T.sentResetsSincePacket.toNat ≤ resetsCap
  pendingPos : T.packetPending = true → 1 ≤ T.pendingLength.toNat
  pendingLe : T.packetPending = true → T.pendingLength.toNat ≤ p.maxPacketSize + 1
  pendingPacket : T.packetPending = true → T.pendingBuffer.isPacket T.pendingLength.toNat
  transmitPacket : T.transmitBuffer.isPacket T.transmitLength.toNat
  transmitBuffer : T.transmitBuffer.isBuffer p.maxPacketSize
  pendingBuffer : T.pendingBuffer.isBuffer p.maxPacketSize

/-- Bound 8 of R44 and the widths of the three current registers (R33). -/
structure AckSession.Inv (curW : Nat) (S : AckSession) : Prop where
  detectedClosed : S.ackDetected = true → S.ackPending = false
  baseline : S.ackBaseline < 2 ^ curW
  maxCurrent : S.ackMaxCurrent < 2 ^ curW
  threshold : S.ackThreshold < 2 ^ (curW + 1)

/-- A turn of the outside world that the block can meet: a strobe, a turn of the control context, a reset. -/
def Turn.isAgent : Turn → Bool
  | .strobe _ | .control _ | .reset => true
  | .row _ _ => false

/-- The invariant of the block: R44 on each track that exists, the session, the width of `cfg.ackLimit` (R40), and only
the steps of the agents to come. -/
structure State.Inv (s : State) : Prop where
  main : s.main.Inv s.par true
  prog : ∀ p, s.prog = some p → p.track.Inv s.par false
  session : ∀ p, s.prog = some p → p.session.Inv s.par.curW
  ackLimit : s.cfg.ackLimit < 2 ^ s.par.curW
  agents : s.turns.all Turn.isAgent = true

/-- The wave rows by the code they stand for: the row the sequencer of `t` runs when its state is `w` (R5). -/
def waveInstr (w : Wave) (t : TrackSel) : Instr :=
  match w with
  | .start => .waveStart t
  | .mid1 => .waveMid1 t
  | .high0 => .waveHigh0 t
  | .mid0 => .waveMid0 t
  | .low0 => .waveLow0 t
  | .pending => .wavePending t

/-- The mask rows by their index (R87). -/
def maskInstr (k : Fin 9) (t : TrackSel) : Instr :=
  match k with
  | 0 => .bitmask0 t
  | 1 => .bitmask1 t
  | 2 => .bitmask2 t
  | 3 => .bitmask3 t
  | 4 => .bitmask4 t
  | 5 => .bitmask5 t
  | 6 => .bitmask6 t
  | 7 => .bitmask7 t
  | 8 => .bitmask8 t

/-- The configuration register rows by their number (R40). -/
def cfgInstr (n : Fin 8) : Instr :=
  match n with
  | 0 => .cfgProgTrackSyncMain
  | 1 => .cfgProgTrackBoosted
  | 2 => .cfgAckLimit
  | 3 => .cfgMinAckPulseDuration
  | 4 => .cfgMaxAckPulseDuration
  | 5 => .cfgReserved5
  | 6 => .cfgReserved6
  | 7 => .cfgReserved7

/-- The bit a resolved state stands for: `MID_1` is a '1', `HIGH_0` a '0' (R114, R115). -/
def bitOf (w : Wave) : Bool := w == .mid1

/-- The bits resolved by the next `n` calls of `advance(T)`, in order, with the track after them (R124). -/
def advanceBits (p : Params) : Nat → Track → Except Fault (List Bool × Track)
  | 0, T => .ok ([], T)
  | n + 1, T =>
    match T.advance p with
    | .error e => .error e
    | .ok T1 =>
      match advanceBits p n T1 with
      | .error e => .error e
      | .ok (bits, T2) => .ok (bitOf T1.state :: bits, T2)

/-- The eight data bits of a byte, most significant first (R89). -/
def byteBits (b : Byte) : List Bool := [b.getLsbD 7, b.getLsbD 6, b.getLsbD 5, b.getLsbD 4, b.getLsbD 3, b.getLsbD 2,
  b.getLsbD 1, b.getLsbD 0]

/-- A packet on the wire: `q` preamble bits, then each byte behind its framing '0' (R89). -/
def wireBits (q : Nat) (bs : List Byte) : List Bool := List.replicate q true ++ bs.flatMap fun b => false :: byteBits b

/-- The levels of one protocol bit, tick by tick (R86). -/
def bitLevels (b : Bool) : List Level := if b then [.high, .low] else [.high, .high, .low, .low]

/-- One tick of a track seen alone: the level it asserts and the track after it (R196 steps 1 to 5). -/
def Track.tickOnce (p : Params) (T : Track) : Except Fault (Level × Track) :=
  match T.step.resolve p with
  | .ok T' => .ok (levelOf T.state, T')
  | .error e => .error e

/-- The levels of the next `n` ticks of a track, with the track after them. -/
def tickLevels (p : Params) : Nat → Track → Except Fault (List Level × Track)
  | 0, T => .ok ([], T)
  | n + 1, T =>
    match T.tickOnce p with
    | .error e => .error e
    | .ok (l, T1) =>
      match tickLevels p n T1 with
      | .error e => .error e
      | .ok (ls, T2) => .ok (l :: ls, T2)

/-- The number of 1 bits in a list of bytes: `ones(B)` of R90. -/
def ones (bs : List Byte) : Nat := (bs.flatMap byteBits).count true

/-- The levels of one transmission, tick by tick: each bit of the packet on the wire in its shape (R86, R89). -/
def wireLevels (q : Nat) (bs : List Byte) : List Level := (wireBits q bs).flatMap bitLevels

/-- `n` packet boundaries one after the other (R71). -/
def boundaries (p : Params) : Nat → Track → Track
  | 0, T => T
  | n + 1, T => boundaries p n (T.packetBoundary p)

/-- The track transmits its filler packet, nothing is repeated and nothing is pending (R28, R127). -/
structure Track.OnlyFiller (p : Params) (T : Track) : Prop where
  length : T.transmitLength.toNat = fillerLen
  bytes : T.transmitBuffer.bytes fillerLen = fillerBytes p T.isMainTrack
  repeats : T.transmitRepeats = 0
  free : T.packetPending = false

/-- The reset values of R46 for one track, with filler `F` and `preambleBits`. -/
structure Track.AtReset (isMain : Bool) (F : List Byte) (preambleBits : Nat) (T : Track) : Prop where
  isMainTrack : T.isMainTrack = isMain
  state : T.state = .start
  filler : T.transmitBuffer.bytes 3 = F
  rest : ∀ i, 3 ≤ i → T.transmitBuffer.read i = 0
  transmitLength : T.transmitLength = 3
  bytesSent : T.bytesSent = 0
  bitsSent : T.bitsSent = 0
  requiredPreambles : T.requiredPreambles.toNat = preambleBits + 1
  remainingPreambles : T.remainingPreambles = T.requiredPreambles
  transmitRepeats : T.transmitRepeats = 0
  pendingBuffer : ∀ i, T.pendingBuffer.read i = 0
  pendingLength : T.pendingLength = 0
  pendingRepeats : T.pendingRepeats = 0
  packetPending : T.packetPending = false
  sentResetsSincePacket : T.sentResetsSincePacket = 0

/-- The rows whose effect may write a packet buffer: the schedule copy and the steps that may run a packet boundary or load
a filler (R60). -/
def mayStore : Instr → Bool
  | .schedulePacket _ | .waveStart _ | .wavePending _ | .advance _ | .packetBoundary _ => true
  | .tick | .tickMainOnly | .idlePacket | .resetPacket => true
  | _ => false

/-- The next `advance` of the track ends the packet: the last bit of the last byte is resolved (R117, R118). -/
def Track.endsPacket (T : Track) : Prop :=
  T.remainingPreambles = 0 ∧ T.bitsSent = 8 ∧ T.transmitLength.toNat ≤ T.bytesSent.toNat + 1

/-- The sequencer position of a track (R30). -/
def Track.position (T : Track) : Wave × BitVec 8 × BitVec 8 × Fin 9 :=
  (T.state, T.remainingPreambles, T.bytesSent, T.bitsSent)

end Sys2Proof.Machine
end

