-- ==== Sys2Proof/WellFormed.lean ====
section
/-! DEFINITION. Which terms of `Instr` the block can be asked to run: the checks on operands that the codes of
30_encoding.md make, and the three reserved codes that no rule gives a value to. -/

namespace Sys2Proof

/-- `CMD[2:0]` is not zero (R102). -/
def lowBitsSet (cmd : BitVec 8) : Bool := cmd.extractLsb' 0 3 != 0#3

/-- `CMD[7:4]` is one of the ten operation codes `0x1` to `0xA` of R101. -/
def opAssigned (cmd : BitVec 8) : Bool := 1 ≤ (cmd.extractLsb' 4 4).toNat && (cmd.extractLsb' 4 4).toNat ≤ 10

/-- Well-formed instructions. `OP_RESERVED_LOWBITS` stands for the words with a set low bit whose operation code is
assigned (the other words with set low bits are those of the six `OP_RESERVED_<n>` rows); wave codes 6 and 7 (R85) and
result code 3 (R93) are no values of their types. -/
def Instr.wf : Instr → Bool
  | .opReservedLowbits cmd => lowBitsSet cmd && opAssigned cmd
  | .waveReserved6 => false
  | .waveReserved7 => false
  | .ackResultReserved3 => false
  | .waveStart _ | .waveMid1 _ | .waveHigh0 _ | .waveMid0 _ | .waveLow0 _ | .wavePending _ => true
  | .schedulePacket _ | .setAckBaseline _ | .setAckPending _ | .getAck _ | .setPowerMode _ | .getPowerMode _ => true
  | .setPowerModeId _ | .getPowerModeId _ | .poll _ | .setConfig _ => true
  | .opReserved0 _ | .opReservedB _ | .opReservedC _ | .opReservedD _ | .opReservedE _ | .opReservedF _ => true
  | .tick | .tickMainOnly | .level _ | .step _ | .advance _ | .packetBoundary _ | .sampleTick => true
  | .ackResultNoAck | .ackResultAck | .ackResultPending | .levelLow _ | .levelHigh _ => true
  | .bitmask0 _ | .bitmask1 _ | .bitmask2 _ | .bitmask3 _ | .bitmask4 _ => true
  | .bitmask5 _ | .bitmask6 _ | .bitmask7 _ | .bitmask8 _ | .idlePacket | .resetPacket => true
  | .cfgProgTrackSyncMain | .cfgProgTrackBoosted | .cfgAckLimit | .cfgMinAckPulseDuration => true
  | .cfgMaxAckPulseDuration | .cfgReserved5 | .cfgReserved6 | .cfgReserved7 => true

/-- Which of the two `tick` rows the strobe selects is fixed by `HAS_PROG` (R197); every other row is there in both
configurations. -/
def Instr.selectedBy (hasProg : Bool) : Instr → Bool
  | .tick => hasProg
  | .tickMainOnly => !hasProg
  | _ => true

/-- The five internal steps of a tick, "internal operation, no code" (R111, R112, R116, R118, R158). -/
def Instr.isInternalStep : Instr → Bool
  | .level _ | .step _ | .advance _ | .packetBoundary _ | .sampleTick => true
  | _ => false

/-- The operations of the control context: the rows of format OP (R100, R220). -/
def Instr.isPortCommand : Instr → Bool
  | .schedulePacket _ | .setAckBaseline _ | .setAckPending _ | .getAck _ | .setPowerMode _ | .getPowerMode _ => true
  | .setPowerModeId _ | .getPowerModeId _ | .poll _ | .setConfig _ => true
  | .opReserved0 _ | .opReservedB _ | .opReservedC _ | .opReservedD _ | .opReservedE _ | .opReservedF _ => true
  | .opReservedLowbits _ => true
  | _ => false

end Sys2Proof
end

