-- ==== Sys2Proof/Certificates/Slice0/Obligations.lean ====
section
/-! DEFINITION. The statements for the provers. Each docstring names the rule of spec/ it formalises; a clause that rests on
a choice of the model says so and names the log entry. -/

open Sys2Proof Sys2Proof.Machine

/-! ### Reset -/

/-- R46: the reset value of every register, for every choice of the parameters; the filler packets of the default
parameters are the bytes of R91. -/
def Obligations.ResetGivesTheStatedValues : Prop :=
  ∀ (hasProg : Bool) (p : Params),
    (State.resetWith hasProg p).main.AtReset true p.idlePacket p.preambleBitsMain ∧
    ((State.resetWith hasProg p).prog.isSome = hasProg) ∧
    (∀ q, (State.resetWith hasProg p).prog = some q →
      q.track.AtReset false p.resetPacket p.preambleBitsProg ∧
      q.session = { ackBaseline := 0, ackThreshold := 0, ackPulseStart := 0, ackPulseDuration := 0, ackMaxCurrent := 0,
                    ackDetected := false, ackPending := false, ackCheckStart := 0, ackCheckDuration := 0 }) ∧
    (State.resetWith hasProg p).cfg =
      { progTrackSyncMain := false, progTrackBoosted := false, ackLimit := p.ackLimitMa,
        minAckPulseDuration := p.minAckPulseUs, maxAckPulseDuration := p.maxAckPulseUs } ∧
    Params.default.idlePacket = [0xFF, 0x00, 0xFF] ∧ Params.default.resetPacket = [0x00, 0x00, 0x00]

/-- R242: a second reset event is the same total overwrite of tracks, session and configuration, whatever the state. The
two outputs are unspecified again (R45): free values of their own, read at the counter (the model's form, log entries 7 and
22). That the port is overwritten too, and that the operations the control context has not yet issued, a held one among
them, survive the event, is the model's choice (log entries 10 and 21). -/
def Obligations.ResetTurnOverwritesTheBlock : Prop :=
  ∀ (s : State) (rest : List Turn), s.turns = .reset :: rest →
    ∃ t, step s = .next t ∧
      t.main = (State.resetWith s.hasProg s.par).main ∧
      t.prog = (State.resetWith s.hasProg s.par).prog ∧
      t.cfg = (State.resetWith s.hasProg s.par).cfg ∧
      t.port = (State.resetWith s.hasProg s.par).port ∧
      t.mainSignal = Config.unspecifiedLevel s.freeCount ∧
      t.progSignal = Config.unspecifiedLevel (s.freeCount + 1) ∧ t.freeCount = s.freeCount + 2 ∧
      t.par = s.par ∧ t.turns = rest ∧ t.ctl = s.ctl ∧ t.out = []

/-! ### Invariants and whole-machine rules -/

/-- The reset state of every configuration meets the invariant (the first half of R44). -/
def Obligations.ResetMeetsTheInvariant : Prop :=
  ∀ (hasProg : Bool) (p : Params), (State.resetWith hasProg p).Inv

/-- Every step keeps the invariant (the second half of R44). -/
def Obligations.StepKeepsTheInvariant : Prop :=
  ∀ s t : State, s.Inv → step s = .next t → t.Inv

/-- In a state that meets the invariant every step answers a next state: nothing faults and nothing is refused (R213). -/
def Obligations.InvariantStatesNeverStop : Prop :=
  ∀ s : State, s.Inv → ∃ t, step s = .next t

/-- R21, R24: the two constant registers of a track, the parameters and the presence of the programming track are never
written by an instruction, and no instruction touches what stands outside the block. -/
def Obligations.ConstantsAreNeverWritten : Prop :=
  ∀ (i : Instr) (s t : State), exec i s = .next t →
    t.par = s.par ∧ t.hasProg = s.hasProg ∧ t.env = s.env ∧ t.turns = s.turns ∧ t.ctl = s.ctl ∧
    (∀ k T U, s.track? k = some T → t.track? k = some U →
      U.isMainTrack = T.isMainTrack ∧ U.requiredPreambles = T.requiredPreambles)

/-- R31, R72: no operation of the control context writes any part of a track's position, nor its transmit buffer, length
or repeats. -/
def Obligations.ControlNeverMovesTheEncoder : Prop :=
  ∀ (i : Instr) (s t : State), i.isPortCommand = true → exec i s = .next t →
    ∀ k T U, s.track? k = some T → t.track? k = some U →
      U.position = T.position ∧ U.transmitBuffer = T.transmitBuffer ∧ U.transmitLength = T.transmitLength ∧
      U.transmitRepeats = T.transmitRepeats

/-- R220, R61: a tick writes no register that belongs to the control context; it can only clear `packetPending`. It never
raises `BUSY`. That it leaves the port's response and the model's note of a held operation is the model's choice (log
entries 12 and 14). -/
def Obligations.TickNeverWritesControlRegisters : Prop :=
  ∀ (i : Instr) (s t : State), i = .tick ∨ i = .tickMainOnly → exec i s = .next t →
    t.cfg = s.cfg ∧ t.port = s.port ∧ (t.busy = true → s.busy = true) ∧
    (∀ k T U, s.track? k = some T → t.track? k = some U →
      U.pendingBuffer = T.pendingBuffer ∧ U.pendingLength = T.pendingLength ∧ U.pendingRepeats = T.pendingRepeats ∧
      (U.packetPending = true → T.packetPending = true)) ∧
    (∀ p q, s.prog = some p → t.prog = some q →
      q.session.ackBaseline = p.session.ackBaseline ∧ q.session.ackThreshold = p.session.ackThreshold ∧
      q.session.ackCheckStart = p.session.ackCheckStart)

/-- The rows that store nothing leave every byte of every packet buffer as it was (R60). -/
def Obligations.NonStoringRowsLeaveEveryBufferByte : Prop :=
  ∀ (i : Instr) (s t : State), mayStore i = false → exec i s = .next t →
    ∀ (k : TrackSel) (pending : Bool) (a : Nat), t.bufferByte k pending a = s.bufferByte k pending a

/-- R72: a tick stores to a transmit buffer only in the tick that ends the packet. -/
def Obligations.TickStoresOnlyAtThePacketEnd : Prop :=
  ∀ s t : State, exec .tick s = .next t →
    ∀ k T, s.track? k = some T → ¬ (T.state = .start ∧ T.endsPacket) → T.state ≠ .pending →
      ∀ (pending : Bool) (a : Nat), t.bufferByte k pending a = s.bufferByte k pending a

/-- R34: while no session is open a tick changes no session register. -/
def Obligations.ClosedSessionIsLeftAlone : Prop :=
  ∀ (s t : State) (p : Prog), s.prog = some p → p.session.ackPending = false → exec .tick s = .next t →
    ∃ q, t.prog = some q ∧ q.session = p.session

/-! ### Encoding -/

/-- Decode and encode agree: every well-formed instruction with a code is what its code decodes to, in the configuration
that has it, and only the five internal steps of a tick have no code. -/
def Obligations.DecodeEncodeAgree : Prop :=
  ∀ (i : Instr) (hasProg : Bool), i.wf = true → i.selectedBy hasProg = true →
    (encode i = none ↔ i.isInternalStep = true) ∧
    (∀ c, encode i = some c → decode hasProg c = .ok i)

/-- The other direction on the host port: each of the 256 command words is the code of the one well-formed instruction it
decodes to (R101, R102). -/
def Obligations.EveryCommandWordIsACode : Prop :=
  ∀ cmd : BitVec 8, (decodePort cmd).wf = true ∧ encode (decodePort cmd) = some (portCode cmd)

/-- Words written out from the tables of R81, R101, R87, R93, R91 and R40 decode to the rows they stand for. -/
def Obligations.SampleWordsDecode : Prop :=
  decode true ⟨.wave, 0b010, .main⟩ = .ok (.waveHigh0 .main) ∧
  decode true ⟨.port, 0b00011000, .main⟩ = .ok (.schedulePacket .prog) ∧
  decode true ⟨.port, 0b01000000, .main⟩ = .ok (.getAck .main) ∧
  decode true ⟨.port, 0b10100000, .main⟩ = .ok (.setConfig .main) ∧
  decode true ⟨.port, 0b00010001, .main⟩ = .ok (.opReservedLowbits 0x11) ∧
  decode true ⟨.strobe, 0b1, .main⟩ = .ok .tick ∧
  decode false ⟨.strobe, 0b1, .main⟩ = .ok .tickMainOnly ∧
  decode true ⟨.ackResult, 0b10, .main⟩ = .ok .ackResultPending ∧
  decode true ⟨.level, 0b1, .prog⟩ = .ok (.levelHigh .prog) ∧
  decode true ⟨.bitmask, 0b00100000, .main⟩ = .ok (.bitmask3 .main) ∧
  decode true ⟨.filler, 0b111111110000000011111111, .main⟩ = .ok .idlePacket ∧
  decode true ⟨.cfgReg, 0b010, .main⟩ = .ok .cfgAckLimit

/-- R85: the decoder of the 3-bit field refuses codes 6 and 7, no reachable run produces them (the type has no such
value), and their rows are refused. -/
def Obligations.ReservedWaveCodesAreRefused : Prop :=
  (∀ (hasProg : Bool) (t : TrackSel) (w : BitVec 24), w = 6 ∨ w = 7 →
    decode hasProg ⟨.wave, w, t⟩ = .error (.reservedWaveCode w)) ∧
  (∀ s : State, exec .waveReserved6 s = .refused (.reservedWaveCode 6)) ∧
  (∀ s : State, exec .waveReserved7 s = .refused (.reservedWaveCode 7))

/-- Result code 3 is "reserved: never returned" (R93): the decoder refuses it and its row is refused. -/
def Obligations.ReservedAckResultIsRefused : Prop :=
  (∀ (hasProg : Bool) (t : TrackSel), decode hasProg ⟨.ackResult, 3, t⟩ = .error .reservedAckResult) ∧
  (∀ s : State, exec .ackResultReserved3 s = .refused .reservedAckResult)

/-- One step runs the instruction its turn decodes to. A strobe runs the tick row of the configuration (R211, R197); a turn
of the control context latches the oldest operation into the port and runs it (R101, R66). The rest is the model's choice:
that the timer goes on alone after the last turn listed (log entry 2), that an operation found held stays the next to issue
while `BUSY` is 1 and any other is done (log entry 14), that a turn of the control context with nothing to issue does
nothing (log entry 23), and the row turns, which no agent takes (log entry 1). -/
def Obligations.StepRunsTheDecodedInstruction : Prop :=
  ∀ s : State,
    (s.turns = [] → step s = exec (if s.hasProg then .tick else .tickMainOnly) s.beginFreeTick) ∧
    (∀ d rest, s.turns = .strobe d :: rest →
      step s = exec (if s.hasProg then .tick else .tickMainOnly) (s.beginTurn d rest)) ∧
    (∀ d rest a as, s.turns = .control d :: rest → s.ctl = a :: as →
      step s = retireResult true (exec (decodePort a.cmd) ((s.beginTurn d rest).latchCommand a))) ∧
    (∀ d rest, s.turns = .control d :: rest → s.ctl = [] → step s = .next (s.beginTurn d rest)) ∧
    (∀ c d rest i, s.turns = .row c d :: rest → decode s.hasProg c = .ok i → step s = exec i (s.beginTurn d rest)) ∧
    (∀ c d rest e, s.turns = .row c d :: rest → decode s.hasProg c = .error e → step s = .refused (.undecodable e)) ∧
    (∀ t : State, retireResult true (.next t) = .next (if t.busy then t else { t with ctl := t.ctl.tail }))

/-! ### The encoder -/

/-- R82, R83: the rows of the four states whose next state is a wave state: the level of the row is asserted, the state
becomes the row's next state, and nothing else changes. -/
def Obligations.SettledWaveRowsFollowTheTables : Prop :=
  ∀ (s : State) (t : TrackSel) (T : Track), s.track? t = some T →
    exec (.waveMid1 t) s = .next ((s.setSignal t .low).setTrack t { T with state := .start }) ∧
    exec (.waveHigh0 t) s = .next ((s.setSignal t .high).setTrack t { T with state := .mid0 }) ∧
    exec (.waveMid0 t) s = .next ((s.setSignal t .low).setTrack t { T with state := .low0 }) ∧
    exec (.waveLow0 t) s = .next ((s.setSignal t .low).setTrack t { T with state := .start })

/-- R82 to R84: the rows whose next state is `PENDING`: the level of the row is asserted and the next bit is resolved in
the same tick by the encoder step, which completes while the cursor is inside the buffer. -/
def Obligations.PendingWaveRowsResolveTheNextBit : Prop :=
  ∀ (s : State) (t : TrackSel) (T : Track), s.track? t = some T → T.bytesSent.toNat ≤ s.par.maxPacketSize →
    ∃ U, exec (.advance t) (s.setTrack t { T with state := .pending }) = .next (s.setTrack t U) ∧
      exec (.waveStart t) s = .next ((s.setSignal t .high).setTrack t U) ∧
      exec (.wavePending t) s = .next ((s.setSignal t .low).setTrack t U)

/-- The main-only tick is the wave row of the state the main track is in: the wave code is the instruction the sequencer
runs (R5, R197). -/
def Obligations.MainTickRunsTheRowOfItsState : Prop :=
  ∀ s : State, exec .tickMainOnly s = exec (waveInstr s.main.state .main) s

/-- R111, R112: the level lookup writes nothing of the track, the table transition writes only its state. That the level
looked up is answered in the response register is the model's choice (log entry 12). -/
def Obligations.LookupAndTransitionOfATrack : Prop :=
  ∀ (s : State) (t : TrackSel) (T : Track), s.track? t = some T →
    (T.state = .start ∨ T.state = .high0 →
      exec (.level t) s = .next { s with port := { s.port with rsp := .level .high } }) ∧
    (T.state = .mid1 ∨ T.state = .mid0 ∨ T.state = .low0 ∨ T.state = .pending →
      exec (.level t) s = .next { s with port := { s.port with rsp := .level .low } }) ∧
    (T.state = .start ∨ T.state = .pending → exec (.step t) s = .next (s.setTrack t { T with state := .pending })) ∧
    (T.state = .mid1 ∨ T.state = .low0 → exec (.step t) s = .next (s.setTrack t { T with state := .start })) ∧
    (T.state = .high0 → exec (.step t) s = .next (s.setTrack t { T with state := .mid0 })) ∧
    (T.state = .mid0 → exec (.step t) s = .next (s.setTrack t { T with state := .low0 }))

/-- R94: a level row asserts its level on the output of its track, where the track exists, and leaves everything else. -/
def Obligations.LevelRowsAssertTheirLevel : Prop :=
  ∀ s : State,
    exec (.levelLow .main) s = .next { s with out := s.out ++ [.setSignal .main .low], mainSignal := .low } ∧
    exec (.levelHigh .main) s = .next { s with out := s.out ++ [.setSignal .main .high], mainSignal := .high } ∧
    (s.prog.isSome →
      exec (.levelLow .prog) s = .next { s with out := s.out ++ [.setSignal .prog .low], progSignal := .low }) ∧
    (s.prog.isSome →
      exec (.levelHigh .prog) s = .next { s with out := s.out ++ [.setSignal .prog .high], progSignal := .high })

/-- R87: the bit produced at index `k` is '0' for the framing entry and data bit `8 - k` of the current byte otherwise; a
'1' gives the track state `MID_1`, a '0' gives `HIGH_0` (R114, R115), and nothing else changes. -/
def Obligations.MaskRowsProduceTheirBit : Prop :=
  ∀ (s : State) (t : TrackSel) (T : Track) (k : Fin 9), s.track? t = some T →
    T.bytesSent.toNat ≤ s.par.maxPacketSize →
    exec (maskInstr k t) s = .next (s.setTrack t { T with state :=
      if k ≠ 0 ∧ (T.transmitBuffer.read T.bytesSent.toNat).getLsbD (8 - k.val) then .mid1 else .high0 })

/-- R116, R117: `advance(T)`. A preamble bit; a framing or data bit inside a byte; the last bit of a byte that is not the
last one; the last bit of the packet, which runs the packet boundary. -/
def Obligations.AdvanceFollowsItsAlgorithm : Prop :=
  ∀ (s : State) (t : TrackSel) (T : Track), s.track? t = some T →
    let bit : Wave :=
      if T.bitsSent ≠ 0 ∧ (T.transmitBuffer.read T.bytesSent.toNat).getLsbD (8 - T.bitsSent.val) then .mid1 else .high0
    (T.remainingPreambles ≠ 0 → exec (.advance t) s =
      .next (s.setTrack t { T with state := .mid1, remainingPreambles := T.remainingPreambles - 1 })) ∧
    (T.remainingPreambles = 0 → T.bytesSent.toNat ≤ s.par.maxPacketSize → ∀ k : Fin 9, k.val = T.bitsSent.val + 1 →
      exec (.advance t) s = .next (s.setTrack t { T with state := bit, bitsSent := k })) ∧
    (T.remainingPreambles = 0 → T.bytesSent.toNat ≤ s.par.maxPacketSize → T.bitsSent = 8 →
      T.bytesSent.toNat + 1 < T.transmitLength.toNat →
      exec (.advance t) s = .next (s.setTrack t { T with state := bit, bitsSent := 0, bytesSent := T.bytesSent + 1 })) ∧
    (T.remainingPreambles = 0 → T.bytesSent.toNat ≤ s.par.maxPacketSize → T.bitsSent = 8 →
      T.transmitLength.toNat ≤ T.bytesSent.toNat + 1 →
      exec (.advance t) s = exec (.packetBoundary t)
        (s.setTrack t { T with state := bit, bitsSent := 0, bytesSent := T.bytesSent + 1 }))

/-- A cursor past the last cell has no meaning in the spec (R63); that `advance` and the mask rows fault there is the
model's choice (log entry 11). A preamble bit does not read the buffer. -/
def Obligations.CursorOutsideTheBufferFaults : Prop :=
  ∀ (s : State) (t : TrackSel) (T : Track), s.track? t = some T → s.par.maxPacketSize < T.bytesSent.toNat →
    (T.remainingPreambles = 0 → exec (.advance t) s = .fault (.bufferIndexOutside T.bytesSent.toNat)) ∧
    (∀ k : Fin 9, exec (maskInstr k t) s = .fault (.bufferIndexOutside T.bytesSent.toNat))

/-- R118 to R121: the packet boundary and its three cases, by priority. -/
def Obligations.PacketBoundaryChoosesByPriority : Prop :=
  ∀ (s : State) (t : TrackSel) (T : Track), s.track? t = some T → T.transmitBuffer.wf = true →
    (T.transmitRepeats ≠ 0 → exec (.packetBoundary t) s = .next (s.setTrack t
      { T with bytesSent := 0, remainingPreambles := T.requiredPreambles, transmitRepeats := T.transmitRepeats - 1 })) ∧
    (T.transmitRepeats = 0 → T.packetPending = true → ∃ m : Memory,
      exec (.packetBoundary t) s = .next (s.setTrack t
        { T with bytesSent := 0, remainingPreambles := T.requiredPreambles, transmitBuffer := m,
                 transmitLength := T.pendingLength, transmitRepeats := T.pendingRepeats, packetPending := false,
                 sentResetsSincePacket := 0 }) ∧
      (∀ i, i ≤ s.par.maxPacketSize → m.read i = T.pendingBuffer.read i) ∧
      (∀ i, s.par.maxPacketSize < i → m.read i = T.transmitBuffer.read i)) ∧
    (T.transmitRepeats = 0 → T.packetPending = false → ∃ m : Memory,
      exec (.packetBoundary t) s = .next (s.setTrack t
        { T with bytesSent := 0, remainingPreambles := T.requiredPreambles, transmitBuffer := m, transmitLength := 3,
                 transmitRepeats := 0,
                 sentResetsSincePacket :=
                   if T.sentResetsSincePacket.toNat < 250 then T.sentResetsSincePacket + 1
                   else T.sentResetsSincePacket }) ∧
      m.bytes 3 = (if T.isMainTrack then s.par.idlePacket else s.par.resetPacket) ∧
      (∀ i, 3 ≤ i → m.read i = T.transmitBuffer.read i))

/-- R91, R121: a filler row loads its packet, a parameter of R6, into the track it is the filler of, and counts the load.
That the row does so is the model's choice (log entry 1), as is that its code does not follow the parameter (log entry
33). -/
def Obligations.FillerRowsLoadTheirPacket : Prop :=
  ∀ (s : State) (i : Instr) (t : TrackSel) (F : List Byte) (T : Track),
    (i = .idlePacket ∧ t = .main ∧ F = s.par.idlePacket) ∨ (i = .resetPacket ∧ t = .prog ∧ F = s.par.resetPacket) →
    s.track? t = some T → T.transmitBuffer.wf = true →
    ∃ m : Memory, exec i s = .next (s.setTrack t
        { T with transmitBuffer := m, transmitLength := 3, transmitRepeats := 0,
                 sentResetsSincePacket :=
                   if T.sentResetsSincePacket.toNat < 250 then T.sentResetsSincePacket + 1
                   else T.sentResetsSincePacket }) ∧
      m.bytes 3 = F ∧ (∀ a, 3 ≤ a → m.read a = T.transmitBuffer.read a)

/-- R124: from a track that stands before the preamble or at the start of its packet, the bits resolved by the next
`q + 9 L` calls of `advance` are the packet on the wire, and the last of these calls runs the packet boundary. -/
def Obligations.AdvanceSendsThePacketOnTheWire : Prop :=
  ∀ (p : Params) (T : Track), 1 ≤ T.transmitLength.toNat → T.transmitLength.toNat ≤ p.maxPacketSize + 1 →
    T.bytesSent = 0 → T.bitsSent = 0 →
    ∃ w, advanceBits p (T.remainingPreambles.toNat + 9 * T.transmitLength.toNat) T =
      .ok (wireBits T.remainingPreambles.toNat (T.transmitBuffer.bytes T.transmitLength.toNat),
        Track.packetBoundary p
          { T with state := w, remainingPreambles := 0, bitsSent := 0, bytesSent := T.transmitLength })

/-- R89, R86, R90: one transmission, tick by tick. From `START` with the cursors at zero a track asserts exactly the levels
of its packet on the wire, which are `2 q + 36 L - 2 ones(B)` ticks, and stands at `START` before the next packet. -/
def Obligations.TransmissionLevelsAndTickCount : Prop :=
  ∀ (p : Params) (T : Track), 1 ≤ T.transmitLength.toNat → T.transmitLength.toNat ≤ p.maxPacketSize + 1 →
    T.state = .start → T.bytesSent = 0 → T.bitsSent = 0 →
    let B := T.transmitBuffer.bytes T.transmitLength.toNat
    let q := T.remainingPreambles.toNat
    2 * ones B ≤ 36 * T.transmitLength.toNat ∧
    tickLevels p (2 * q + 36 * T.transmitLength.toNat - 2 * ones B) T =
      .ok (wireLevels q B, Track.packetBoundary p
        { T with remainingPreambles := 0, bitsSent := 0, bytesSent := T.transmitLength })

/-- R127, R28: a track that transmits its filler with nothing repeated and nothing pending does so after every tick, and
its filler bytes stay the same. -/
def Obligations.FillerIsSentForEver : Prop :=
  ∀ (i : Instr) (s t : State), i = .tick ∨ i = .tickMainOnly → s.Inv → exec i s = .next t →
    ∀ k T U, s.track? k = some T → t.track? k = some U → T.OnlyFiller s.par → U.OnlyFiller s.par

/-- R126, R145: a pending packet taken at a boundary is in the transmit buffer for that transmission and for each of its
repeats, and after the last the filler follows. -/
def Obligations.PacketIsSentRepeatsPlusOneTimes : Prop :=
  ∀ (p : Params) (T : Track), T.transmitRepeats = 0 → T.packetPending = true → T.transmitBuffer.wf = true →
    T.pendingLength.toNat ≤ p.maxPacketSize + 1 →
    (∀ k, k ≤ T.pendingRepeats.toNat →
      (boundaries p (k + 1) T).transmitLength = T.pendingLength ∧
      (boundaries p (k + 1) T).transmitBuffer.bytes T.pendingLength.toNat =
        T.pendingBuffer.bytes T.pendingLength.toNat ∧
      (boundaries p (k + 1) T).transmitRepeats.toNat = T.pendingRepeats.toNat - k) ∧
    (boundaries p (T.pendingRepeats.toNat + 2) T).OnlyFiller p

/-- R71, R68: an occupied slot waits for the repeats of the packet in transmission and is freed at the first boundary at
which none is left, so after `transmitRepeats + 1` boundaries. -/
def Obligations.SlotIsFreedAfterTheRepeats : Prop :=
  ∀ (p : Params) (T : Track), T.packetPending = true →
    (∀ k, k ≤ T.transmitRepeats.toNat → (boundaries p k T).packetPending = true) ∧
    (boundaries p (T.transmitRepeats.toNat + 1) T).packetPending = false

/-! ### The scheduler -/

/-- R141, R143, R92: an accepted packet: payload and checksum in the pending buffer, length, repeats, flag, counter. The
bytes stored are the cells `0 .. count` of that buffer, and nothing else changes. Where the host wrote fewer than `count`
bytes the missing ones are 0x00, which is the model's choice (log entry 19). -/
def Obligations.ScheduleStoresPacketAndChecksum : Prop :=
  ∀ (s : State) (trk : TrackSel) (T : Track), s.track? trk = some T →
    s.port.args.argCount.toNat ≤ s.par.maxPacketSize → T.packetPending = false → T.pendingBuffer.wf = true →
    ∃ m : Memory, exec (.schedulePacket trk) s = .next (s.setTrack trk
        { T with pendingBuffer := m, pendingLength := s.port.args.argCount + 1,
                 pendingRepeats := s.port.args.argRepeats, packetPending := true, sentResetsSincePacket := 0 }) ∧
      (s.port.args.argCount + 1).toNat = s.port.args.argCount.toNat + 1 ∧
      (∀ i, i < s.port.args.argCount.toNat → m.read i = s.port.args.argBytes.getD i 0) ∧
      m.read s.port.args.argCount.toNat =
        ((List.range s.port.args.argCount.toNat).map fun i => s.port.args.argBytes.getD i 0).foldr (· ^^^ ·) 0 ∧
      (∀ i, s.port.args.argCount.toNat < i → m.read i = T.pendingBuffer.read i)

/-- R148, R103: an oversized payload is rejected silently, whether the slot is free or occupied: nothing changes and the
call is not held. -/
def Obligations.OversizedPayloadIsRejected : Prop :=
  ∀ (s : State) (trk : TrackSel), s.par.maxPacketSize < s.port.args.argCount.toNat →
    exec (.schedulePacket trk) s = .next s

/-- R142: while the slot is occupied an accepted `schedulePacket` is held for that slot: `BUSY` is 1 and nothing else
changes. As a turn of the control context it leaves the block as it was and stays the next operation to issue, and a tick
right after it runs as it would without the hold (R212). That the hold is a step which notes the slot, keeps the response
and is tried again is the model's choice (log entry 14). -/
def Obligations.OccupiedSlotHoldsTheCaller : Prop :=
  ∀ (s : State) (trk : TrackSel) (T : Track), s.track? trk = some T → T.packetPending = true →
    (s.port.args.argCount.toNat ≤ s.par.maxPacketSize →
      let t : State := { s with port := { s.port with waiting := some trk } }
      exec (.schedulePacket trk) s = .next t ∧ t.busy = true) ∧
    (∀ (d : Draws) (rest : List Turn) (a : PortArgs) (as : List PortArgs), s.turns = .control d :: rest →
      s.ctl = a :: as → decodePort a.cmd = .schedulePacket trk → a.argCount.toNat ≤ s.par.maxPacketSize →
      let t : State :=
        { s with env := d, out := [], turns := rest, port := { args := a, rsp := s.port.rsp, waiting := some trk } }
      step s = .next t ∧ t.busy = true ∧
      (∀ d' rest', rest = .strobe d' :: rest' →
        step t = exec (if s.hasProg then .tick else .tickMainOnly) (t.beginTurn d' rest')))

/-- R143: after a packet has been stored, the XOR of the `count + 1` bytes in the cells `0 .. count` of the pending buffer,
checksum included, is zero (also where the bytes the host did not write are taken as 0x00, log entry 19). -/
def Obligations.PacketXorIsZero : Prop :=
  ∀ (s : State) (trk : TrackSel) (T : Track), s.track? trk = some T →
    s.port.args.argCount.toNat ≤ s.par.maxPacketSize → T.packetPending = false → T.pendingBuffer.wf = true →
    ∃ (t : State) (U : Track), exec (.schedulePacket trk) s = .next t ∧ t.track? trk = some U ∧
      U.packetPending = true ∧ U.pendingLength.toNat = s.port.args.argCount.toNat + 1 ∧
      ((List.range (s.port.args.argCount.toNat + 1)).map fun i => U.pendingBuffer.read i).foldr (fun x y => x ^^^ y) 0 = 0

/-! ### The detector -/

/-- R156: the baseline and the threshold, exact in `CUR_W + 1` bits; no other register changes. -/
def Obligations.BaselineSetsTheThreshold : Prop :=
  ∀ (s : State) (trk : TrackSel) (p : Prog), s.prog = some p →
    let c := s.env.current % 2 ^ s.par.curW
    let delta := Config.mA2raw s.cfg.ackLimit % 2 ^ s.par.curW
    let S : AckSession := { p.session with ackBaseline := c, ackThreshold := c + delta }
    exec (.setAckBaseline trk) s = .next { s with prog := some { p with session := S } } ∧
    c + delta < 2 ^ (s.par.curW + 1)

/-- R157: arming clears the pulse registers and `ackDetected`, records the time and opens the session; threshold, baseline,
`ackCheckDuration` and the timeout clock are not written. -/
def Obligations.ArmingOpensTheSession : Prop :=
  ∀ (s : State) (trk : TrackSel) (p : Prog), s.prog = some p →
    let S : AckSession :=
      { p.session with ackMaxCurrent := 0, ackPulseStart := 0, ackPulseDuration := 0, ackDetected := false,
                       ackCheckStart := s.env.nowMs, ackPending := true }
    exec (.setAckPending trk) s = .next { s with prog := some { p with session := S } }

/-- R165, R93: the result of `getAck` by the two flags; the operation writes no state but the response. -/
def Obligations.GetAckReadsTheFlags : Prop :=
  ∀ (s : State) (trk : TrackSel) (p : Prog), s.prog = some p →
    let answer (code : BitVec 2) : Result := .next { s with port := { s.port with rsp := .ack code } }
    (p.session.ackPending = true → exec (.getAck trk) s = answer 2) ∧
    (p.session.ackPending = false → p.session.ackDetected = true → exec (.getAck trk) s = answer 1) ∧
    (p.session.ackPending = false → p.session.ackDetected = false → exec (.getAck trk) s = answer 0)

/-- R93: the rows of the three result codes put their code in the response register (log entry 12). -/
def Obligations.AckResultRowsRespond : Prop :=
  ∀ s : State,
    let answer (code : BitVec 2) : Result := .next { s with port := { s.port with rsp := .ack code } }
    exec .ackResultNoAck s = answer 0 ∧ exec .ackResultAck s = answer 1 ∧ exec .ackResultPending s = answer 2

/-- R167: the classifier as a table, with `max` for the running maximum of step 2. -/
def Obligations.DetectorFollowsTheTable : Prop :=
  ∀ (s : State) (p : Prog), s.prog = some p →
    let c := s.env.current % 2 ^ s.par.curW
    let S := p.session
    let d := s.env.nowUs - S.ackPulseStart
    let ok := s.cfg.minAckPulseDuration.toNat ≤ d.toNat ∧ d.toNat ≤ s.cfg.maxAckPulseDuration.toNat
    let inTime := p.track.sentResetsSincePacket.toNat ≤ 6
    let M := max S.ackMaxCurrent c
    let ends (U : Track) (S' : AckSession) : Prop :=
      exec .sampleTick s = .next { s with prog := some { track := U, session := S' } }
    (¬ inTime → ends p.track { S with ackCheckDuration := s.env.nowMs - S.ackCheckStart, ackPending := false }) ∧
    (inTime → S.ackThreshold < c → S.ackPulseStart = 0 →
      ends p.track { S with ackMaxCurrent := M, ackPulseStart := s.env.nowUs }) ∧
    (inTime → S.ackThreshold < c → S.ackPulseStart ≠ 0 → ends p.track { S with ackMaxCurrent := M }) ∧
    (inTime → c ≤ S.ackThreshold → S.ackPulseStart = 0 → ends p.track { S with ackMaxCurrent := M }) ∧
    (inTime → c ≤ S.ackThreshold → S.ackPulseStart ≠ 0 → ok →
      ends { p.track with transmitRepeats := 0 }
        { S with ackMaxCurrent := M, ackPulseDuration := d, ackCheckDuration := s.env.nowMs - S.ackCheckStart,
                 ackDetected := true, ackPending := false }) ∧
    (inTime → c ≤ S.ackThreshold → S.ackPulseStart ≠ 0 → ¬ ok →
      ends p.track { S with ackMaxCurrent := M, ackPulseDuration := d, ackPulseStart := 0 })

/-- R159, R196: in an open session whose timeout clock stands above 6, a tick that does not resolve a programming bit ends
the session with `NO_ACK` and takes no sample, and a tick that resolves one leaves the session open. -/
def Obligations.TimeoutEndsTheSessionAtADetectorTick : Prop :=
  ∀ (s : State) (p : Prog), s.Inv → s.prog = some p → p.session.ackPending = true →
    6 < p.track.sentResetsSincePacket.toNat →
    ∃ t q, exec .tick s = .next t ∧ t.prog = some q ∧
      (p.track.state = .start → q.session = p.session) ∧
      (p.track.state ≠ .start → q.session.result = .noAck ∧ q.session.ackMaxCurrent = p.session.ackMaxCurrent ∧
        q.session.ackCheckDuration = s.env.nowMs - p.session.ackCheckStart ∧
        q.track.transmitRepeats = p.track.transmitRepeats)

/-! ### The dispatcher -/

/-- R196: the two-track tick. Both levels are decided and asserted first, main before programming; then the states move by
the table; a track whose new state is `PENDING` resolves its next bit; otherwise, on the programming track with an open
session, the detector runs. Nothing else changes. -/
def Obligations.TickAdvancesBothTracks : Prop :=
  ∀ (s : State) (p : Prog), s.prog = some p → s.main.bytesSent.toNat ≤ s.par.maxPacketSize →
    p.track.bytesSent.toNat ≤ s.par.maxPacketSize →
    let lm := levelOf s.main.state
    let lp := if s.cfg.progTrackSyncMain then lm else levelOf p.track.state
    let p1 : Prog := { p with track := { p.track with state := nextWave p.track.state } }
    ∃ (T : Track) (q : Prog), exec .tick s = .next { s with
        main := T, prog := some q, out := s.out ++ [.setSignal .main lm, .setSignal .prog lp],
        mainSignal := lm, progSignal := lp } ∧
      (nextWave s.main.state ≠ .pending → T = { s.main with state := nextWave s.main.state }) ∧
      (nextWave s.main.state = .pending →
        exec (.advance .main) { s with main := { s.main with state := .pending } } = .next { s with main := T }) ∧
      (nextWave p.track.state = .pending → q.session = p.session ∧
        exec (.advance .prog) { s with prog := some p1 } = .next { s with prog := some q }) ∧
      (nextWave p.track.state ≠ .pending → p.session.ackPending = false → q = p1) ∧
      (nextWave p.track.state ≠ .pending → p.session.ackPending = true →
        exec .sampleTick { s with prog := some p1 } = .next { s with prog := some q })

/-- R197: the main-only tick: one level, the main track moved, and nothing else, whatever else there is. That the two-track
tick, where there is no programming track, is this tick is the model's reading (log entry 4, DEDUCED). -/
def Obligations.MainOnlyTickLeavesTheRest : Prop :=
  ∀ s : State, s.main.bytesSent.toNat ≤ s.par.maxPacketSize →
    ∃ T : Track, exec .tickMainOnly s = .next { s with
        main := T, out := s.out ++ [.setSignal .main (levelOf s.main.state)], mainSignal := levelOf s.main.state } ∧
      (nextWave s.main.state ≠ .pending → T = { s.main with state := nextWave s.main.state }) ∧
      (nextWave s.main.state = .pending →
        exec (.advance .main) { s with main := { s.main with state := .pending } } = .next { s with main := T }) ∧
      (s.prog = none → exec .tick s = exec .tickMainOnly s)

/-- R74: inside one tick the two tracks do not interact. The main track after a tick is the same in two states that agree
on the main track; the programming side is the same in two states that agree on it, on `cfg` and on the inputs. -/
def Obligations.TracksDoNotInteractInATick : Prop :=
  ∀ s s' t t' : State, s.par = s'.par → exec .tick s = .next t → exec .tick s' = .next t' →
    (s.main = s'.main → t.main = t'.main ∧ t.mainSignal = t'.mainSignal) ∧
    (s.prog = s'.prog → s.cfg = s'.cfg → s.env = s'.env → t.prog = t'.prog)

/-- R199: joining the tracks changes the programming output of a tick and nothing else of what the tick does. -/
def Obligations.JoiningChangesOnlyTheProgrammingLevel : Prop :=
  ∀ (s t t' : State) (p : Prog), s.prog = some p →
    exec .tick { s with cfg := { s.cfg with progTrackSyncMain := true } } = .next t →
    exec .tick { s with cfg := { s.cfg with progTrackSyncMain := false } } = .next t' →
    t.main = t'.main ∧ t.prog = t'.prog ∧ t.mainSignal = t'.mainSignal ∧
    t.progSignal = t.mainSignal ∧ t'.progSignal = levelOf p.track.state

/-! ### The coordinator and the reserved codes -/

/-- R182, R184: power modes go to every driver of the chain in order, or to the one driver of `chain(main) ++ chain(prog)`
that has the id; an id that no driver has does nothing. No register of the block is written. -/
def Obligations.SetPowerModeReachesItsDrivers : Prop :=
  ∀ (s : State) (trk : TrackSel),
    let id := s.port.args.argId
    let mode := s.port.args.argMode
    exec (.setPowerMode .main) s = .next { s with
      out := s.out ++ s.par.chainMain.ids.map fun d => .setPowerMode d mode } ∧
    (s.prog.isSome → exec (.setPowerMode .prog) s = .next { s with
      out := s.out ++ s.par.chainProg.ids.map fun d => .setPowerMode d mode }) ∧
    (s.prog.isSome → id ∈ s.par.chainMain.ids ++ s.par.chainProg.ids →
      exec (.setPowerModeId trk) s = .next { s with out := s.out ++ [.setPowerMode id mode] }) ∧
    (s.prog.isSome → id ∉ s.par.chainMain.ids ++ s.par.chainProg.ids → exec (.setPowerModeId trk) s = .next s)

/-- R183, R185: the answer of the primary driver, or of the driver of the two chains that has the id; where the id is no
driver's, or the inputs list no answer, any value (log entry 8). The block's registers are not written, only the
response. -/
def Obligations.GetPowerModeAsksItsDriver : Prop :=
  ∀ (s : State) (trk : TrackSel) (m : PowerMode),
    let answer (m : PowerMode) : Result :=
      .next { s with port := { s.port with rsp := .mode m }, freeCount := s.freeCount + 1 }
    (s.env.modes.lookup s.par.chainMain.primary = some m → exec (.getPowerMode .main) s = answer m) ∧
    (s.prog.isSome → s.env.modes.lookup s.par.chainProg.primary = some m → exec (.getPowerMode .prog) s = answer m) ∧
    (s.prog.isSome → s.port.args.argId ∈ s.par.chainMain.ids ++ s.par.chainProg.ids →
      s.env.modes.lookup s.port.args.argId = some m → exec (.getPowerModeId trk) s = answer m) ∧
    (∃ m', exec (.getPowerMode trk) s = answer m') ∧
    (∃ m', exec (.getPowerModeId trk) s = answer m')

/-- R187: one `poll`: hint 0 to the main chain, then the hint to the programming chain where there is one. -/
def Obligations.PollGivesEachDriverItsHint : Prop :=
  ∀ (s : State) (trk : TrackSel),
    (s.prog = none → exec (.poll trk) s = .next { s with
      out := s.out ++ s.par.chainMain.ids.map fun d => .checkPowerOverload d false }) ∧
    (s.prog.isSome → exec (.poll trk) s = .next { s with
      out := s.out ++ ((s.par.chainMain.ids.map fun d => .checkPowerOverload d false) ++
        s.par.chainProg.ids.map fun d => .checkPowerOverload d
          (s.port.args.argFlag && !s.cfg.progTrackSyncMain && !s.cfg.progTrackBoosted)) })

/-- R186, R40: `setConfig` writes the register of its number, cut to the register's width, and the row of a register is
`setConfig` with its number. A number above 4 does nothing. -/
def Obligations.SetConfigWritesItsRegister : Prop :=
  ∀ (s : State) (trk : TrackSel) (n : Fin 8),
    let v := s.port.args.argValue
    let written : CfgRegs :=
      if n = 0 then { s.cfg with progTrackSyncMain := v.getLsbD 0 }
      else if n = 1 then { s.cfg with progTrackBoosted := v.getLsbD 0 }
      else if n = 2 then { s.cfg with ackLimit := v.toNat % 2 ^ s.par.curW }
      else if n = 3 then { s.cfg with minAckPulseDuration := v }
      else if n = 4 then { s.cfg with maxAckPulseDuration := v }
      else s.cfg
    exec (cfgInstr n) s = .next { s with cfg := written } ∧
    (s.port.args.argReg.toNat = n.val → exec (.setConfig trk) s = .next { s with cfg := written })

/-- R102: the reserved command words do nothing, change no state and emit nothing. -/
def Obligations.ReservedCommandsDoNothing : Prop :=
  ∀ (s : State) (low : BitVec 4) (cmd : BitVec 8),
    exec (.opReserved0 low) s = .next s ∧ exec (.opReservedB low) s = .next s ∧ exec (.opReservedC low) s = .next s ∧
    exec (.opReservedD low) s = .next s ∧ exec (.opReservedE low) s = .next s ∧ exec (.opReservedF low) s = .next s ∧
    exec (.opReservedLowbits cmd) s = .next s

/-- R102, R166: the commands of a programming track that does not exist do nothing; `getAck` answers `NO_ACK`, and
`getPowerMode` an unspecified mode (log entry 8). -/
def Obligations.CommandsWithoutAProgrammingTrack : Prop :=
  ∀ (s : State) (trk : TrackSel), s.prog = none →
    exec (.schedulePacket .prog) s = .next s ∧ exec (.setPowerMode .prog) s = .next s ∧
    (∃ m, exec (.getPowerMode .prog) s =
      .next { s with port := { s.port with rsp := .mode m }, freeCount := s.freeCount + 1 }) ∧
    exec (.setAckBaseline trk) s = .next s ∧ exec (.setAckPending trk) s = .next s ∧
    exec (.getAck trk) s = .next { s with port := { s.port with rsp := .ack 0 } }

/-- The steps and rows of a programming track that does not exist are omitted (log entry 4, from R197 and R102). -/
def Obligations.RowsWithoutAProgrammingTrack : Prop :=
  ∀ (s : State) (w : Wave) (k : Fin 9), s.prog = none →
    exec (waveInstr w .prog) s = .next s ∧ exec (maskInstr k .prog) s = .next s ∧
    exec (.level .prog) s = .next s ∧ exec (.step .prog) s = .next s ∧ exec (.advance .prog) s = .next s ∧
    exec (.packetBoundary .prog) s = .next s ∧ exec .sampleTick s = .next s ∧ exec (.levelLow .prog) s = .next s ∧
    exec (.levelHigh .prog) s = .next s ∧ exec .resetPacket s = .next s

/-- R184, R185 where there is no programming track: the ids that count are those of the main chain, since the drivers of a
track that does not exist are left out (the model's choice, log entry 4). -/
def Obligations.PowerModeByIdWithoutAProgrammingTrack : Prop :=
  ∀ (s : State) (trk : TrackSel) (m : PowerMode), s.prog = none →
    let id := s.port.args.argId
    (id ∈ s.par.chainMain.ids → exec (.setPowerModeId trk) s = .next { s with
      out := s.out ++ [.setPowerMode id s.port.args.argMode] }) ∧
    (id ∉ s.par.chainMain.ids → exec (.setPowerModeId trk) s = .next s) ∧
    (id ∈ s.par.chainMain.ids → s.env.modes.lookup id = some m → exec (.getPowerModeId trk) s =
      .next { s with port := { s.port with rsp := .mode m }, freeCount := s.freeCount + 1 })

/-- R142, R212, R101: while an operation is held for an occupied slot `BUSY` is 1, and a tick ends the hold exactly where it
passes a packet boundary of that track with no repeats left: `BUSY` falls in that tick, and stays 1 in every other. That the
port notes the slot an operation is held for is the model's form (log entry 14). -/
def Obligations.BusyFallsInTheTickThatFreesTheSlot : Prop :=
  ∀ (i : Instr) (s t : State) (k : TrackSel) (T : Track), i = .tick ∨ (i = .tickMainOnly ∧ k = .main) →
    s.port.waiting = some k → s.track? k = some T → T.packetPending = true → T.state ≠ .pending →
    exec i s = .next t →
    s.busy = true ∧ (t.busy = false ↔ T.state = .start ∧ T.endsPacket ∧ T.transmitRepeats = 0)
end

