-- ==== Sys2Proof/Laws/Memory.lean ====
section
/-! SUPPORT. The laws of a packet buffer: a read after a write, and that every operation keeps the canonical form and
stays inside the buffer. -/

namespace Sys2Proof.Machine

@[simp] theorem Memory.read_nil (i : Nat) : Memory.read [] i = Memory.unlisted := rfl

theorem Memory.read_cell (m : Memory) (i : Nat) (v : Byte) (h : m.read i = Memory.unlisted) :
    (Memory.cell i v m).read i = v := by
  unfold Memory.cell
  split
  · simp_all
  · simp [Memory.read]

theorem Memory.read_cell_other (m : Memory) (i j : Nat) (v : Byte) (h : j ≠ i) :
    (Memory.cell i v m).read j = m.read j := by
  unfold Memory.cell
  split
  · rfl
  · simp [Memory.read, h]

/-- Nothing is listed at or below the bound of a canonical tail. -/
theorem Memory.read_of_wfAbove (m : Memory) (a i : Nat) (h : m.wfAbove a = true) (hi : i ≤ a) :
    m.read i = Memory.unlisted := by
  induction m generalizing a with
  | nil => rfl
  | cons c m ih =>
    obtain ⟨a', b⟩ := c
    simp only [Memory.wfAbove, Bool.and_eq_true, decide_eq_true_eq] at h
    obtain ⟨⟨h1, -⟩, h2⟩ := h
    rw [Memory.read, if_neg (by omega)]
    exact ih a' h2 (by omega)

theorem Memory.wfAbove_mono (m : Memory) (a a' : Nat) (h : m.wfAbove a = true) (ha : a' ≤ a) :
    m.wfAbove a' = true := by
  cases m with
  | nil => rfl
  | cons c m =>
    simp only [Memory.wfAbove, Bool.and_eq_true, decide_eq_true_eq] at h ⊢
    exact ⟨⟨by omega, h.1.2⟩, h.2⟩

theorem Memory.wfAbove_cons (m : Memory) (a a' : Nat) (b : Byte) (ha : a < a') (hb : (b != Memory.unlisted) = true)
    (h : m.wfAbove a' = true) : Memory.wfAbove ((a', b) :: m) a = true := by
  simp only [Memory.wfAbove, Bool.and_eq_true, decide_eq_true_eq]
  exact ⟨⟨ha, hb⟩, h⟩

theorem Memory.wf_of_wfAbove (m : Memory) (a : Nat) (h : m.wfAbove a = true) : m.wf = true := by
  cases m with
  | nil => rfl
  | cons c m =>
    simp only [Memory.wfAbove, Bool.and_eq_true] at h
    simp only [Memory.wf, Bool.and_eq_true]
    exact ⟨h.1.2, h.2⟩

theorem Memory.wfAbove_cell (m : Memory) (a i : Nat) (v : Byte) (hi : a < i) (h : m.wfAbove i = true) :
    (Memory.cell i v m).wfAbove a = true := by
  unfold Memory.cell
  split
  · exact Memory.wfAbove_mono m i a h (by omega)
  · simp_all [Memory.wfAbove]

theorem Memory.wfAbove_write (m : Memory) (a i : Nat) (v : Byte) (hi : a < i) (h : m.wfAbove a = true) :
    (m.write i v).wfAbove a = true := by
  induction m generalizing a with
  | nil => exact Memory.wfAbove_cell [] a i v hi rfl
  | cons c m ih =>
    obtain ⟨a', b⟩ := c
    simp only [Memory.wfAbove, Bool.and_eq_true, decide_eq_true_eq] at h
    obtain ⟨⟨h1, h2⟩, h3⟩ := h
    simp only [Memory.write]
    split
    · exact Memory.wfAbove_cell _ a i v hi (Memory.wfAbove_cons _ _ _ _ (by assumption) h2 (by assumption))
    · split
      · subst_vars
        exact Memory.wfAbove_cell m a _ v hi h3
      · simp only [Memory.wfAbove, Bool.and_eq_true, decide_eq_true_eq]
        exact ⟨⟨h1, h2⟩, ih a' (by omega) h3⟩

/-- A write keeps the canonical form. -/
theorem Memory.wf_write (m : Memory) (i : Nat) (v : Byte) (h : m.wf = true) : (m.write i v).wf = true := by
  cases m with
  | nil =>
    simp only [Memory.write, Memory.cell]
    split
    · rfl
    · simp_all [Memory.wf, Memory.wfAbove]
  | cons c m =>
    obtain ⟨a, b⟩ := c
    simp only [Memory.wf, Bool.and_eq_true] at h
    obtain ⟨h1, h2⟩ := h
    simp only [Memory.write]
    split
    · unfold Memory.cell
      split
      · simp only [Memory.wf, Bool.and_eq_true]
        exact ⟨h1, h2⟩
      · simp_all [Memory.wf, Memory.wfAbove]
    · split
      · unfold Memory.cell
        split
        · exact Memory.wf_of_wfAbove m a h2
        · simp_all [Memory.wf]
      · simp only [Memory.wf, Bool.and_eq_true]
        exact ⟨h1, Memory.wfAbove_write m a i v (by omega) h2⟩

theorem Memory.read_write_other (m : Memory) (i j : Nat) (v : Byte) (h : j ≠ i) :
    (m.write i v).read j = m.read j := by
  induction m with
  | nil => exact Memory.read_cell_other [] i j v h
  | cons c m ih =>
    obtain ⟨a, b⟩ := c
    simp only [Memory.write]
    split
    · exact Memory.read_cell_other _ i j v h
    · split
      · subst_vars
        rw [Memory.read_cell_other _ _ _ _ h, Memory.read, if_neg h]
      · simp only [Memory.read, ih]

theorem Memory.read_write_above (m : Memory) (a i : Nat) (v : Byte) (hi : a < i) (h : m.wfAbove a = true) :
    (m.write i v).read i = v := by
  induction m generalizing a with
  | nil => exact Memory.read_cell [] i v rfl
  | cons c m ih =>
    obtain ⟨a', b⟩ := c
    simp only [Memory.wfAbove, Bool.and_eq_true, decide_eq_true_eq] at h
    obtain ⟨⟨h1, h2⟩, h3⟩ := h
    simp only [Memory.write]
    split
    · exact Memory.read_cell _ i v (Memory.read_of_wfAbove _ i i (Memory.wfAbove_cons _ _ _ _ (by assumption) h2 (by assumption)) (by omega))
    · split
      · subst_vars
        exact Memory.read_cell m _ v (Memory.read_of_wfAbove m _ _ h3 (by omega))
      · rw [Memory.read, if_neg (by assumption)]
        exact ih a' (by omega) h3

/-- A read after a write to the same cell of a canonical buffer gives the byte written. -/
theorem Memory.read_write_same (m : Memory) (i : Nat) (v : Byte) (h : m.wf = true) : (m.write i v).read i = v := by
  cases m with
  | nil => exact Memory.read_cell [] i v rfl
  | cons c m =>
    obtain ⟨a, b⟩ := c
    simp only [Memory.wf, Bool.and_eq_true] at h
    obtain ⟨h1, h2⟩ := h
    simp only [Memory.write]
    split
    · exact Memory.read_cell _ i v (Memory.read_of_wfAbove _ i i (Memory.wfAbove_cons _ _ _ _ (by assumption) h1 (by assumption)) (by omega))
    · split
      · subst_vars
        exact Memory.read_cell m _ v (Memory.read_of_wfAbove m _ _ h2 (by omega))
      · rw [Memory.read, if_neg (by assumption)]
        exact Memory.read_write_above m a i v (by omega) h2

theorem Memory.below_cell (m : Memory) (i n : Nat) (v : Byte) (hi : i < n) (h : m.below n = true) :
    (Memory.cell i v m).below n = true := by
  unfold Memory.cell
  split
  · exact h
  · simp only [Memory.below, List.all_cons, Bool.and_eq_true, decide_eq_true_eq]
    exact ⟨hi, h⟩

/-- A write inside the buffer stays inside it. -/
theorem Memory.below_write (m : Memory) (i n : Nat) (v : Byte) (hi : i < n) (h : m.below n = true) :
    (m.write i v).below n = true := by
  induction m with
  | nil => exact Memory.below_cell [] i n v hi rfl
  | cons c m ih =>
    obtain ⟨a, b⟩ := c
    have h' : a < n ∧ Memory.below m n = true := by simpa [Memory.below] using h
    simp only [Memory.write]
    split
    · exact Memory.below_cell _ i n v hi h
    · split
      · exact Memory.below_cell m i n v hi h'.2
      · have := ih h'.2
        simp only [Memory.below, List.all_cons, Bool.and_eq_true, decide_eq_true_eq] at this ⊢
        exact ⟨h'.1, this⟩

theorem Memory.wf_writeBytes (m : Memory) (i : Nat) (bs : List Byte) (h : m.wf = true) :
    (m.writeBytes i bs).wf = true := by
  induction bs generalizing m i with
  | nil => exact h
  | cons b bs ih => exact ih _ _ (Memory.wf_write m i b h)

theorem Memory.below_writeBytes (m : Memory) (i n : Nat) (bs : List Byte) (hi : i + bs.length ≤ n)
    (h : m.below n = true) : (m.writeBytes i bs).below n = true := by
  induction bs generalizing m i with
  | nil => exact h
  | cons b bs ih =>
    simp only [List.length_cons] at hi
    exact ih _ _ (by omega) (Memory.below_write m i n b (by omega) h)

/-- A byte before the stored ones is unchanged. -/
theorem Memory.read_writeBytes_before (m : Memory) (i j : Nat) (bs : List Byte) (hj : j < i) :
    (m.writeBytes i bs).read j = m.read j := by
  induction bs generalizing m i with
  | nil => rfl
  | cons b bs ih => exact (ih _ _ (by omega)).trans (Memory.read_write_other m i j b (by omega))

/-- A byte after the stored ones is unchanged. -/
theorem Memory.read_writeBytes_after (m : Memory) (i j : Nat) (bs : List Byte) (hj : i + bs.length ≤ j) :
    (m.writeBytes i bs).read j = m.read j := by
  induction bs generalizing m i with
  | nil => rfl
  | cons b bs ih =>
    simp only [List.length_cons] at hj
    exact (ih _ _ (by omega)).trans (Memory.read_write_other m i j b (by omega))

/-- The stored bytes read back. -/
theorem Memory.read_writeBytes (m : Memory) (i k : Nat) (bs : List Byte) (h : m.wf = true) (hk : k < bs.length) :
    (m.writeBytes i bs).read (i + k) = bs[k] := by
  induction bs generalizing m i k with
  | nil => simp at hk
  | cons b bs ih =>
    cases k with
    | zero =>
      simp only [Nat.add_zero, List.getElem_cons_zero, Memory.writeBytes]
      rw [Memory.read_writeBytes_before _ _ _ _ (by omega), Memory.read_write_same m i b h]
    | succ k =>
      simp only [List.getElem_cons_succ, Memory.writeBytes]
      have := ih (m.write i b) (i + 1) k (Memory.wf_write m i b h) (by simpa using hk)
      rwa [show i + 1 + k = i + (k + 1) by omega] at this

theorem Memory.wf_copy (dst src : Memory) (n : Nat) (h : dst.wf = true) : (Memory.copy dst src n).wf = true := by
  induction n with
  | zero => exact h
  | succ n ih => exact Memory.wf_write _ _ _ ih

theorem Memory.below_copy (dst src : Memory) (n k : Nat) (hn : n ≤ k) (h : dst.below k = true) :
    (Memory.copy dst src n).below k = true := by
  induction n with
  | zero => exact h
  | succ n ih => exact Memory.below_write _ _ _ _ (by omega) (ih (by omega))

/-- The copied bytes are the source's. -/
theorem Memory.read_copy (dst src : Memory) (n i : Nat) (h : dst.wf = true) (hi : i < n) :
    (Memory.copy dst src n).read i = src.read i := by
  induction n with
  | zero => omega
  | succ n ih =>
    by_cases hin : i = n
    · subst hin
      exact Memory.read_write_same _ _ _ (Memory.wf_copy dst src i h)
    · exact (Memory.read_write_other _ _ _ _ hin).trans (ih (by omega))

/-- The bytes beyond the copied ones are unchanged. -/
theorem Memory.read_copy_after (dst src : Memory) (n i : Nat) (hi : n ≤ i) :
    (Memory.copy dst src n).read i = dst.read i := by
  induction n with
  | zero => rfl
  | succ n ih => exact (Memory.read_write_other _ _ _ _ (by omega)).trans (ih (by omega))

theorem Memory.bytes_congr (m m' : Memory) (n : Nat) (h : ∀ i, i < n → m.read i = m'.read i) :
    m.bytes n = m'.bytes n := by
  unfold Memory.bytes
  exact List.map_congr_left fun i hi => h i (List.mem_range.mp hi)

/-- Storing a list of bytes at the start of a canonical buffer makes them its first bytes. -/
theorem Memory.bytes_writeBytes (m : Memory) (bs : List Byte) (h : m.wf = true) :
    (m.writeBytes 0 bs).bytes bs.length = bs := by
  apply List.ext_getElem
  · simp [Memory.bytes]
  · intro i h1 h2
    simp only [Memory.bytes, List.getElem_map, List.getElem_range]
    simpa using Memory.read_writeBytes m 0 i bs h h2

end Sys2Proof.Machine
end

