-- ==== Sys2Proof/Laws/State.lean ====
section
/-! SUPPORT. Each named update of the state, field by field, and the two accessors of a track: what an update writes and
what it leaves. No later proof needs to unfold a record update. -/

namespace Sys2Proof.Machine

@[simp] theorem State.setSession_par (s : State) (S : AckSession) : (s.setSession S).par = s.par := rfl
@[simp] theorem State.setSession_main (s : State) (S : AckSession) : (s.setSession S).main = s.main := rfl
@[simp] theorem State.setSession_prog (s : State) (S : AckSession) :
    (s.setSession S).prog = s.prog.map fun p => { p with session := S } := rfl
@[simp] theorem State.setSession_cfg (s : State) (S : AckSession) : (s.setSession S).cfg = s.cfg := rfl
@[simp] theorem State.setSession_port (s : State) (S : AckSession) : (s.setSession S).port = s.port := rfl
@[simp] theorem State.setSession_env (s : State) (S : AckSession) : (s.setSession S).env = s.env := rfl
@[simp] theorem State.setSession_out (s : State) (S : AckSession) : (s.setSession S).out = s.out := rfl
@[simp] theorem State.setSession_mainSignal (s : State) (S : AckSession) :
    (s.setSession S).mainSignal = s.mainSignal := rfl
@[simp] theorem State.setSession_progSignal (s : State) (S : AckSession) :
    (s.setSession S).progSignal = s.progSignal := rfl
@[simp] theorem State.setSession_turns (s : State) (S : AckSession) : (s.setSession S).turns = s.turns := rfl
@[simp] theorem State.setSession_ctl (s : State) (S : AckSession) : (s.setSession S).ctl = s.ctl := rfl
@[simp] theorem State.setSession_freeCount (s : State) (S : AckSession) :
    (s.setSession S).freeCount = s.freeCount := rfl

@[simp] theorem State.emit_par (s : State) (e : Event) : (s.emit e).par = s.par := rfl
@[simp] theorem State.emit_main (s : State) (e : Event) : (s.emit e).main = s.main := rfl
@[simp] theorem State.emit_prog (s : State) (e : Event) : (s.emit e).prog = s.prog := rfl
@[simp] theorem State.emit_cfg (s : State) (e : Event) : (s.emit e).cfg = s.cfg := rfl
@[simp] theorem State.emit_port (s : State) (e : Event) : (s.emit e).port = s.port := rfl
@[simp] theorem State.emit_env (s : State) (e : Event) : (s.emit e).env = s.env := rfl
@[simp] theorem State.emit_out (s : State) (e : Event) : (s.emit e).out = s.out ++ [e] := rfl
@[simp] theorem State.emit_mainSignal (s : State) (e : Event) : (s.emit e).mainSignal = s.mainSignal := rfl
@[simp] theorem State.emit_progSignal (s : State) (e : Event) : (s.emit e).progSignal = s.progSignal := rfl
@[simp] theorem State.emit_turns (s : State) (e : Event) : (s.emit e).turns = s.turns := rfl
@[simp] theorem State.emit_ctl (s : State) (e : Event) : (s.emit e).ctl = s.ctl := rfl
@[simp] theorem State.emit_freeCount (s : State) (e : Event) : (s.emit e).freeCount = s.freeCount := rfl

@[simp] theorem State.emitAll_par (s : State) (es : List Event) : (s.emitAll es).par = s.par := rfl
@[simp] theorem State.emitAll_main (s : State) (es : List Event) : (s.emitAll es).main = s.main := rfl
@[simp] theorem State.emitAll_prog (s : State) (es : List Event) : (s.emitAll es).prog = s.prog := rfl
@[simp] theorem State.emitAll_cfg (s : State) (es : List Event) : (s.emitAll es).cfg = s.cfg := rfl
@[simp] theorem State.emitAll_port (s : State) (es : List Event) : (s.emitAll es).port = s.port := rfl
@[simp] theorem State.emitAll_env (s : State) (es : List Event) : (s.emitAll es).env = s.env := rfl
@[simp] theorem State.emitAll_out (s : State) (es : List Event) : (s.emitAll es).out = s.out ++ es := rfl
@[simp] theorem State.emitAll_mainSignal (s : State) (es : List Event) :
    (s.emitAll es).mainSignal = s.mainSignal := rfl
@[simp] theorem State.emitAll_progSignal (s : State) (es : List Event) :
    (s.emitAll es).progSignal = s.progSignal := rfl
@[simp] theorem State.emitAll_turns (s : State) (es : List Event) : (s.emitAll es).turns = s.turns := rfl
@[simp] theorem State.emitAll_ctl (s : State) (es : List Event) : (s.emitAll es).ctl = s.ctl := rfl
@[simp] theorem State.emitAll_freeCount (s : State) (es : List Event) : (s.emitAll es).freeCount = s.freeCount := rfl

@[simp] theorem State.respond_par (s : State) (r : Response) : (s.respond r).par = s.par := rfl
@[simp] theorem State.respond_main (s : State) (r : Response) : (s.respond r).main = s.main := rfl
@[simp] theorem State.respond_prog (s : State) (r : Response) : (s.respond r).prog = s.prog := rfl
@[simp] theorem State.respond_cfg (s : State) (r : Response) : (s.respond r).cfg = s.cfg := rfl
@[simp] theorem State.respond_port (s : State) (r : Response) : (s.respond r).port = { s.port with rsp := r } := rfl
@[simp] theorem State.respond_env (s : State) (r : Response) : (s.respond r).env = s.env := rfl
@[simp] theorem State.respond_out (s : State) (r : Response) : (s.respond r).out = s.out := rfl
@[simp] theorem State.respond_mainSignal (s : State) (r : Response) : (s.respond r).mainSignal = s.mainSignal := rfl
@[simp] theorem State.respond_progSignal (s : State) (r : Response) : (s.respond r).progSignal = s.progSignal := rfl
@[simp] theorem State.respond_turns (s : State) (r : Response) : (s.respond r).turns = s.turns := rfl
@[simp] theorem State.respond_ctl (s : State) (r : Response) : (s.respond r).ctl = s.ctl := rfl
@[simp] theorem State.respond_freeCount (s : State) (r : Response) : (s.respond r).freeCount = s.freeCount := rfl

@[simp] theorem State.holdFor_par (s : State) (t : TrackSel) : (s.holdFor t).par = s.par := rfl
@[simp] theorem State.holdFor_main (s : State) (t : TrackSel) : (s.holdFor t).main = s.main := rfl
@[simp] theorem State.holdFor_prog (s : State) (t : TrackSel) : (s.holdFor t).prog = s.prog := rfl
@[simp] theorem State.holdFor_cfg (s : State) (t : TrackSel) : (s.holdFor t).cfg = s.cfg := rfl
@[simp] theorem State.holdFor_port (s : State) (t : TrackSel) : (s.holdFor t).port = { s.port with waiting := some t } := rfl
@[simp] theorem State.holdFor_env (s : State) (t : TrackSel) : (s.holdFor t).env = s.env := rfl
@[simp] theorem State.holdFor_out (s : State) (t : TrackSel) : (s.holdFor t).out = s.out := rfl
@[simp] theorem State.holdFor_mainSignal (s : State) (t : TrackSel) : (s.holdFor t).mainSignal = s.mainSignal := rfl
@[simp] theorem State.holdFor_progSignal (s : State) (t : TrackSel) : (s.holdFor t).progSignal = s.progSignal := rfl
@[simp] theorem State.holdFor_turns (s : State) (t : TrackSel) : (s.holdFor t).turns = s.turns := rfl
@[simp] theorem State.holdFor_ctl (s : State) (t : TrackSel) : (s.holdFor t).ctl = s.ctl := rfl
@[simp] theorem State.holdFor_freeCount (s : State) (t : TrackSel) : (s.holdFor t).freeCount = s.freeCount := rfl

@[simp] theorem State.answerMode_par (s : State) (m : PowerMode) : (s.answerMode m).par = s.par := rfl
@[simp] theorem State.answerMode_main (s : State) (m : PowerMode) : (s.answerMode m).main = s.main := rfl
@[simp] theorem State.answerMode_prog (s : State) (m : PowerMode) : (s.answerMode m).prog = s.prog := rfl
@[simp] theorem State.answerMode_cfg (s : State) (m : PowerMode) : (s.answerMode m).cfg = s.cfg := rfl
@[simp] theorem State.answerMode_port (s : State) (m : PowerMode) :
    (s.answerMode m).port = { s.port with rsp := .mode m } := rfl
@[simp] theorem State.answerMode_env (s : State) (m : PowerMode) : (s.answerMode m).env = s.env := rfl
@[simp] theorem State.answerMode_out (s : State) (m : PowerMode) : (s.answerMode m).out = s.out := rfl
@[simp] theorem State.answerMode_mainSignal (s : State) (m : PowerMode) :
    (s.answerMode m).mainSignal = s.mainSignal := rfl
@[simp] theorem State.answerMode_progSignal (s : State) (m : PowerMode) :
    (s.answerMode m).progSignal = s.progSignal := rfl
@[simp] theorem State.answerMode_turns (s : State) (m : PowerMode) : (s.answerMode m).turns = s.turns := rfl
@[simp] theorem State.answerMode_ctl (s : State) (m : PowerMode) : (s.answerMode m).ctl = s.ctl := rfl
@[simp] theorem State.answerMode_freeCount (s : State) (m : PowerMode) :
    (s.answerMode m).freeCount = s.freeCount + 1 := rfl

@[simp] theorem State.setSignal_par (s : State) (t : TrackSel) (l : Level) :
    (s.setSignal t l).par = s.par := by cases t <;> rfl
@[simp] theorem State.setSignal_main (s : State) (t : TrackSel) (l : Level) :
    (s.setSignal t l).main = s.main := by cases t <;> rfl
@[simp] theorem State.setSignal_prog (s : State) (t : TrackSel) (l : Level) :
    (s.setSignal t l).prog = s.prog := by cases t <;> rfl
@[simp] theorem State.setSignal_cfg (s : State) (t : TrackSel) (l : Level) :
    (s.setSignal t l).cfg = s.cfg := by cases t <;> rfl
@[simp] theorem State.setSignal_port (s : State) (t : TrackSel) (l : Level) :
    (s.setSignal t l).port = s.port := by cases t <;> rfl
@[simp] theorem State.setSignal_env (s : State) (t : TrackSel) (l : Level) :
    (s.setSignal t l).env = s.env := by cases t <;> rfl
@[simp] theorem State.setSignal_turns (s : State) (t : TrackSel) (l : Level) :
    (s.setSignal t l).turns = s.turns := by cases t <;> rfl
@[simp] theorem State.setSignal_ctl (s : State) (t : TrackSel) (l : Level) :
    (s.setSignal t l).ctl = s.ctl := by cases t <;> rfl
@[simp] theorem State.setSignal_freeCount (s : State) (t : TrackSel) (l : Level) :
    (s.setSignal t l).freeCount = s.freeCount := by cases t <;> rfl

@[simp] theorem State.setSignal_out (s : State) (t : TrackSel) (l : Level) :
    (s.setSignal t l).out = s.out ++ [.setSignal t l] := by cases t <;> rfl
@[simp] theorem State.setSignal_signal (s : State) (t : TrackSel) (l : Level) :
    (s.setSignal t l).signal t = l := by
  cases t <;> rfl

@[simp] theorem State.setTrack_par (s : State) (t : TrackSel) (T : Track) :
    (s.setTrack t T).par = s.par := by cases t <;> rfl
@[simp] theorem State.setTrack_cfg (s : State) (t : TrackSel) (T : Track) :
    (s.setTrack t T).cfg = s.cfg := by cases t <;> rfl
@[simp] theorem State.setTrack_port (s : State) (t : TrackSel) (T : Track) :
    (s.setTrack t T).port = s.port := by cases t <;> rfl
@[simp] theorem State.setTrack_env (s : State) (t : TrackSel) (T : Track) :
    (s.setTrack t T).env = s.env := by cases t <;> rfl
@[simp] theorem State.setTrack_out (s : State) (t : TrackSel) (T : Track) :
    (s.setTrack t T).out = s.out := by cases t <;> rfl
@[simp] theorem State.setTrack_mainSignal (s : State) (t : TrackSel) (T : Track) :
    (s.setTrack t T).mainSignal = s.mainSignal := by cases t <;> rfl
@[simp] theorem State.setTrack_progSignal (s : State) (t : TrackSel) (T : Track) :
    (s.setTrack t T).progSignal = s.progSignal := by cases t <;> rfl
@[simp] theorem State.setTrack_turns (s : State) (t : TrackSel) (T : Track) :
    (s.setTrack t T).turns = s.turns := by cases t <;> rfl
@[simp] theorem State.setTrack_ctl (s : State) (t : TrackSel) (T : Track) :
    (s.setTrack t T).ctl = s.ctl := by cases t <;> rfl
@[simp] theorem State.setTrack_freeCount (s : State) (t : TrackSel) (T : Track) :
    (s.setTrack t T).freeCount = s.freeCount := by cases t <;> rfl

@[simp] theorem State.beginTurn_par (s : State) (d : Draws) (rest : List Turn) :
    (s.beginTurn d rest).par = s.par := rfl
@[simp] theorem State.beginTurn_main (s : State) (d : Draws) (rest : List Turn) :
    (s.beginTurn d rest).main = s.main := rfl
@[simp] theorem State.beginTurn_prog (s : State) (d : Draws) (rest : List Turn) :
    (s.beginTurn d rest).prog = s.prog := rfl
@[simp] theorem State.beginTurn_cfg (s : State) (d : Draws) (rest : List Turn) :
    (s.beginTurn d rest).cfg = s.cfg := rfl
@[simp] theorem State.beginTurn_port (s : State) (d : Draws) (rest : List Turn) :
    (s.beginTurn d rest).port = s.port := rfl
@[simp] theorem State.beginTurn_env (s : State) (d : Draws) (rest : List Turn) : (s.beginTurn d rest).env = d := rfl
@[simp] theorem State.beginTurn_out (s : State) (d : Draws) (rest : List Turn) : (s.beginTurn d rest).out = [] := rfl
@[simp] theorem State.beginTurn_mainSignal (s : State) (d : Draws) (rest : List Turn) :
    (s.beginTurn d rest).mainSignal = s.mainSignal := rfl
@[simp] theorem State.beginTurn_progSignal (s : State) (d : Draws) (rest : List Turn) :
    (s.beginTurn d rest).progSignal = s.progSignal := rfl
@[simp] theorem State.beginTurn_turns (s : State) (d : Draws) (rest : List Turn) :
    (s.beginTurn d rest).turns = rest := rfl
@[simp] theorem State.beginTurn_ctl (s : State) (d : Draws) (rest : List Turn) :
    (s.beginTurn d rest).ctl = s.ctl := rfl
@[simp] theorem State.beginTurn_freeCount (s : State) (d : Draws) (rest : List Turn) :
    (s.beginTurn d rest).freeCount = s.freeCount := rfl

@[simp] theorem State.latchCommand_par (s : State) (a : PortArgs) : (s.latchCommand a).par = s.par := rfl
@[simp] theorem State.latchCommand_main (s : State) (a : PortArgs) : (s.latchCommand a).main = s.main := rfl
@[simp] theorem State.latchCommand_prog (s : State) (a : PortArgs) : (s.latchCommand a).prog = s.prog := rfl
@[simp] theorem State.latchCommand_cfg (s : State) (a : PortArgs) : (s.latchCommand a).cfg = s.cfg := rfl
@[simp] theorem State.latchCommand_port (s : State) (a : PortArgs) :
    (s.latchCommand a).port = { s.port with args := a, waiting := none } := rfl
@[simp] theorem State.latchCommand_env (s : State) (a : PortArgs) : (s.latchCommand a).env = s.env := rfl
@[simp] theorem State.latchCommand_out (s : State) (a : PortArgs) : (s.latchCommand a).out = s.out := rfl
@[simp] theorem State.latchCommand_mainSignal (s : State) (a : PortArgs) :
    (s.latchCommand a).mainSignal = s.mainSignal := rfl
@[simp] theorem State.latchCommand_progSignal (s : State) (a : PortArgs) :
    (s.latchCommand a).progSignal = s.progSignal := rfl
@[simp] theorem State.latchCommand_turns (s : State) (a : PortArgs) : (s.latchCommand a).turns = s.turns := rfl
@[simp] theorem State.latchCommand_ctl (s : State) (a : PortArgs) : (s.latchCommand a).ctl = s.ctl := rfl
@[simp] theorem State.latchCommand_freeCount (s : State) (a : PortArgs) :
    (s.latchCommand a).freeCount = s.freeCount := rfl

@[simp] theorem State.beginFreeTick_par (s : State) : (s.beginFreeTick).par = s.par := rfl
@[simp] theorem State.beginFreeTick_main (s : State) : (s.beginFreeTick).main = s.main := rfl
@[simp] theorem State.beginFreeTick_prog (s : State) : (s.beginFreeTick).prog = s.prog := rfl
@[simp] theorem State.beginFreeTick_cfg (s : State) : (s.beginFreeTick).cfg = s.cfg := rfl
@[simp] theorem State.beginFreeTick_port (s : State) : (s.beginFreeTick).port = s.port := rfl
@[simp] theorem State.beginFreeTick_env (s : State) : (s.beginFreeTick).env = s.freeDraws := rfl
@[simp] theorem State.beginFreeTick_out (s : State) : (s.beginFreeTick).out = [] := rfl
@[simp] theorem State.beginFreeTick_mainSignal (s : State) : (s.beginFreeTick).mainSignal = s.mainSignal := rfl
@[simp] theorem State.beginFreeTick_progSignal (s : State) : (s.beginFreeTick).progSignal = s.progSignal := rfl
@[simp] theorem State.beginFreeTick_turns (s : State) : (s.beginFreeTick).turns = s.turns := rfl
@[simp] theorem State.beginFreeTick_ctl (s : State) : (s.beginFreeTick).ctl = s.ctl := rfl
@[simp] theorem State.beginFreeTick_freeCount (s : State) : (s.beginFreeTick).freeCount = s.freeCount + 1 := rfl

@[simp] theorem State.writeConfig_par (s : State) (reg : Nat) : (s.writeConfig reg).par = s.par := rfl
@[simp] theorem State.writeConfig_main (s : State) (reg : Nat) : (s.writeConfig reg).main = s.main := rfl
@[simp] theorem State.writeConfig_prog (s : State) (reg : Nat) : (s.writeConfig reg).prog = s.prog := rfl
@[simp] theorem State.writeConfig_cfg (s : State) (reg : Nat) :
    (s.writeConfig reg).cfg = s.cfg.write s.par.curW reg s.port.args.argValue := rfl
@[simp] theorem State.writeConfig_port (s : State) (reg : Nat) : (s.writeConfig reg).port = s.port := rfl
@[simp] theorem State.writeConfig_env (s : State) (reg : Nat) : (s.writeConfig reg).env = s.env := rfl
@[simp] theorem State.writeConfig_out (s : State) (reg : Nat) : (s.writeConfig reg).out = s.out := rfl
@[simp] theorem State.writeConfig_mainSignal (s : State) (reg : Nat) :
    (s.writeConfig reg).mainSignal = s.mainSignal := rfl
@[simp] theorem State.writeConfig_progSignal (s : State) (reg : Nat) :
    (s.writeConfig reg).progSignal = s.progSignal := rfl
@[simp] theorem State.writeConfig_turns (s : State) (reg : Nat) : (s.writeConfig reg).turns = s.turns := rfl
@[simp] theorem State.writeConfig_ctl (s : State) (reg : Nat) : (s.writeConfig reg).ctl = s.ctl := rfl
@[simp] theorem State.writeConfig_freeCount (s : State) (reg : Nat) :
    (s.writeConfig reg).freeCount = s.freeCount := rfl

@[simp] theorem State.placeCommand_par (s : State) (a : PortArgs) (d : Draws) :
    (s.placeCommand a d).par = s.par := rfl
@[simp] theorem State.placeCommand_main (s : State) (a : PortArgs) (d : Draws) :
    (s.placeCommand a d).main = s.main := rfl
@[simp] theorem State.placeCommand_prog (s : State) (a : PortArgs) (d : Draws) :
    (s.placeCommand a d).prog = s.prog := rfl
@[simp] theorem State.placeCommand_cfg (s : State) (a : PortArgs) (d : Draws) :
    (s.placeCommand a d).cfg = s.cfg := rfl
@[simp] theorem State.placeCommand_port (s : State) (a : PortArgs) (d : Draws) :
    (s.placeCommand a d).port = s.port := rfl
@[simp] theorem State.placeCommand_env (s : State) (a : PortArgs) (d : Draws) :
    (s.placeCommand a d).env = s.env := rfl
@[simp] theorem State.placeCommand_out (s : State) (a : PortArgs) (d : Draws) :
    (s.placeCommand a d).out = s.out := rfl
@[simp] theorem State.placeCommand_mainSignal (s : State) (a : PortArgs) (d : Draws) :
    (s.placeCommand a d).mainSignal = s.mainSignal := rfl
@[simp] theorem State.placeCommand_progSignal (s : State) (a : PortArgs) (d : Draws) :
    (s.placeCommand a d).progSignal = s.progSignal := rfl
@[simp] theorem State.placeCommand_turns (s : State) (a : PortArgs) (d : Draws) :
    (s.placeCommand a d).turns = .control d :: s.turns := rfl
@[simp] theorem State.placeCommand_ctl (s : State) (a : PortArgs) (d : Draws) :
    (s.placeCommand a d).ctl = a :: s.ctl := rfl
@[simp] theorem State.placeCommand_freeCount (s : State) (a : PortArgs) (d : Draws) :
    (s.placeCommand a d).freeCount = s.freeCount := rfl

@[simp] theorem State.placeRow_par (s : State) (c : Code) (d : Draws) : (s.placeRow c d).par = s.par := rfl
@[simp] theorem State.placeRow_main (s : State) (c : Code) (d : Draws) : (s.placeRow c d).main = s.main := rfl
@[simp] theorem State.placeRow_prog (s : State) (c : Code) (d : Draws) : (s.placeRow c d).prog = s.prog := rfl
@[simp] theorem State.placeRow_cfg (s : State) (c : Code) (d : Draws) : (s.placeRow c d).cfg = s.cfg := rfl
@[simp] theorem State.placeRow_port (s : State) (c : Code) (d : Draws) : (s.placeRow c d).port = s.port := rfl
@[simp] theorem State.placeRow_env (s : State) (c : Code) (d : Draws) : (s.placeRow c d).env = s.env := rfl
@[simp] theorem State.placeRow_out (s : State) (c : Code) (d : Draws) : (s.placeRow c d).out = s.out := rfl
@[simp] theorem State.placeRow_mainSignal (s : State) (c : Code) (d : Draws) :
    (s.placeRow c d).mainSignal = s.mainSignal := rfl
@[simp] theorem State.placeRow_progSignal (s : State) (c : Code) (d : Draws) :
    (s.placeRow c d).progSignal = s.progSignal := rfl
@[simp] theorem State.placeRow_turns (s : State) (c : Code) (d : Draws) :
    (s.placeRow c d).turns = .row c d :: s.turns := rfl
@[simp] theorem State.placeRow_ctl (s : State) (c : Code) (d : Draws) : (s.placeRow c d).ctl = s.ctl := rfl
@[simp] theorem State.placeRow_freeCount (s : State) (c : Code) (d : Draws) :
    (s.placeRow c d).freeCount = s.freeCount := rfl

@[simp] theorem State.track?_main (s : State) : s.track? .main = some s.main := rfl
@[simp] theorem State.track?_prog (s : State) : s.track? .prog = s.prog.map Prog.track := rfl
@[simp] theorem State.setTrack_main_main (s : State) (T : Track) : (s.setTrack .main T).main = T := rfl
@[simp] theorem State.setTrack_main_prog (s : State) (T : Track) : (s.setTrack .main T).prog = s.prog := rfl
@[simp] theorem State.setTrack_prog_main (s : State) (T : Track) : (s.setTrack .prog T).main = s.main := rfl
@[simp] theorem State.setTrack_prog_prog (s : State) (T : Track) :
    (s.setTrack .prog T).prog = s.prog.map fun p => { p with track := T } := rfl

/-- A track written is read back, where it exists. -/
theorem State.track?_setTrack (s : State) (t : TrackSel) (T : Track) (h : (s.track? t).isSome) :
    (s.setTrack t T).track? t = some T := by
  cases t with
  | main => rfl
  | prog => cases hp : s.prog <;> simp_all

/-- Writing one track leaves the other. -/
theorem State.track?_setTrack_other (s : State) (t u : TrackSel) (T : Track) (h : u ≠ t) :
    (s.setTrack t T).track? u = s.track? u := by
  cases t <;> cases u <;> simp_all

@[simp] theorem State.setTrack_hasProg (s : State) (t : TrackSel) (T : Track) :
    (s.setTrack t T).hasProg = s.hasProg := by
  cases t <;> simp [State.hasProg]

@[simp] theorem State.setSignal_track? (s : State) (t u : TrackSel) (l : Level) :
    (s.setSignal t l).track? u = s.track? u := by cases t <;> cases u <;> rfl

/-- The later of two writes of one track stands. -/
theorem State.setTrack_setTrack (s : State) (t : TrackSel) (X Y : Track) :
    (s.setTrack t X).setTrack t Y = s.setTrack t Y := by
  cases t with
  | main => rfl
  | prog =>
    unfold State.setTrack
    cases s.prog <;> rfl

/-- Holding an operation shows at `BUSY` exactly where the slot it waits for is occupied. -/
@[simp] theorem State.holdFor_busy (s : State) (t : TrackSel) : (s.holdFor t).busy = s.slotOccupied t := by
  cases t <;> rfl

@[simp] theorem State.latchCommand_busy (s : State) (a : PortArgs) : (s.latchCommand a).busy = false := rfl

/-- The slot of a track that exists. -/
theorem State.slotOccupied_some (s : State) (t : TrackSel) (T : Track) (h : s.track? t = some T) :
    s.slotOccupied t = T.packetPending := by
  rw [State.slotOccupied, h]

/-- `BUSY` while an operation is held for the slot of a track that exists. -/
theorem State.busy_of_waiting (s : State) (t : TrackSel) (T : Track) (hw : s.port.waiting = some t)
    (h : s.track? t = some T) : s.busy = T.packetPending := by
  rw [State.busy, hw]
  exact s.slotOccupied_some t T h

/-- The drivers of both chains where there is a programming track (R184). -/
theorem State.drivers_of_prog (s : State) (h : s.prog.isSome) :
    s.drivers = s.par.chainMain.ids ++ s.par.chainProg.ids := by simp [State.drivers, State.hasProg, h]

/-- The drivers of the main chain alone where there is none (log entry 4). -/
theorem State.drivers_of_none (s : State) (h : s.prog = none) : s.drivers = s.par.chainMain.ids := by
  simp [State.drivers, State.hasProg, h]

/-- An operation on a track that exists. -/
theorem State.onTrack_some (s : State) (t : TrackSel) (f : Track → Except Fault Track) (T : Track)
    (h : s.track? t = some T) : s.onTrack t f =
      match f T with
      | .ok T' => .next (s.setTrack t T')
      | .error e => .fault e := by
  unfold State.onTrack
  cases hf : f T <;> simp only [h, hf]

/-- Everything an operation on one track can answer: nothing where there is no such track, the track with its new
registers, or the fault the operation meets. -/
theorem State.onTrack_cases (s : State) (t : TrackSel) (f : Track → Except Fault Track) :
    (s.track? t = none ∧ s.onTrack t f = .next s) ∨
    (∃ T T', s.track? t = some T ∧ f T = .ok T' ∧ s.onTrack t f = .next (s.setTrack t T')) ∨
    (∃ T e, s.track? t = some T ∧ f T = .error e ∧ s.onTrack t f = .fault e) := by
  unfold State.onTrack
  cases h : s.track? t with
  | none => exact .inl ⟨rfl, rfl⟩
  | some T =>
    cases hf : f T with
    | ok T' => exact .inr (.inl ⟨T, T', rfl, hf, by simp only [hf]⟩)
    | error e => exact .inr (.inr ⟨T, e, rfl, hf, by simp only [hf]⟩)

end Sys2Proof.Machine
end

