-- ==== Sys2Proof/Laws/Encoder.lean ====
section
/-! SUPPORT. What each operation of the encoder can do to a track, said once: the bit a mask entry selects, the cases of
`advance`, the packet boundary, and that each of them keeps the bounds of R44. -/

namespace Sys2Proof

/-- The parameter constraints as propositions. -/
theorem Params.size (p : Params) : 2 ≤ p.maxPacketSize ∧ p.maxPacketSize ≤ 254 := by
  have h := p.ok
  simp only [ParamData.ok, Bool.and_eq_true, decide_eq_true_eq] at h
  omega

theorem Params.preambles (p : Params) (b : Bool) : Machine.preambleBits p b ≤ 254 := by
  have h := p.ok
  simp only [ParamData.ok, Bool.and_eq_true, decide_eq_true_eq] at h
  unfold Machine.preambleBits
  split <;> omega

theorem Params.ackLimit_lt (p : Params) : p.ackLimitMa < 2 ^ p.curW := by
  have h := p.ok
  simp only [ParamData.ok, Bool.and_eq_true, decide_eq_true_eq] at h
  exact h.1.1.2

/-- A filler packet is two bytes and their XOR. -/
theorem isFillerPacket_iff (F : List Byte) : isFillerPacket F = true ↔ ∃ a b, F = [a, b, a ^^^ b] := by
  constructor
  · intro h
    match F, h with
    | [a, b, c], h => exact ⟨a, b, by rw [show c = a ^^^ b by simpa [isFillerPacket] using h]⟩
  · rintro ⟨a, b, rfl⟩
    simp [isFillerPacket]

/-- Both filler packets of the parameters are filler packets (R6). -/
theorem Params.filler (p : Params) (b : Bool) : ∃ x y, Machine.fillerBytes p b = [x, y, x ^^^ y] := by
  have h := p.ok
  simp only [ParamData.ok, Bool.and_eq_true, decide_eq_true_eq] at h
  rw [← isFillerPacket_iff]
  cases b
  · exact h.1.1.1.1.2
  · exact h.1.1.1.1.1.2

end Sys2Proof

namespace Sys2Proof.Machine

/-- Entry `k` of the mask selects no bit for the framing entry and data bit `8 - k` otherwise. -/
theorem mask_selects (b : Byte) (k : Fin 9) :
    ((b &&& bitMask k) != 0) = decide (k ≠ 0 ∧ b.getLsbD (8 - k.val) = true) := by
  revert b
  fin_cases k <;> decide

/-- The bit looked up while the cursor is inside the buffer. -/
theorem Track.bitAt_inside (n : Nat) (T : Track) (k : Fin 9) (h : T.bytesSent.toNat ≤ n) :
    T.bitAt n k = .ok (decide (k ≠ 0 ∧ (T.transmitBuffer.read T.bytesSent.toNat).getLsbD (8 - k.val) = true)) := by
  rw [Track.bitAt, if_pos h, mask_selects]

theorem Track.bitAt_outside (n : Nat) (T : Track) (k : Fin 9) (h : n < T.bytesSent.toNat) :
    T.bitAt n k = .error (.bufferIndexOutside T.bytesSent.toNat) := by
  rw [Track.bitAt, if_neg (by omega)]

/-- A bit given its wave state while the cursor is inside the buffer. -/
theorem Track.resolveBit_inside (n : Nat) (T : Track) (k : Fin 9) (h : T.bytesSent.toNat ≤ n) :
    T.resolveBit n k = .ok (T.giveBit
      (decide (k ≠ 0 ∧ (T.transmitBuffer.read T.bytesSent.toNat).getLsbD (8 - k.val) = true))) := by
  rw [Track.resolveBit, Track.bitAt_inside n T k h]

theorem Track.resolveBit_outside (n : Nat) (T : Track) (k : Fin 9) (h : n < T.bytesSent.toNat) :
    T.resolveBit n k = .error (.bufferIndexOutside T.bytesSent.toNat) := by
  rw [Track.resolveBit, Track.bitAt_outside n T k h]

theorem Track.advance_preamble (p : Params) (T : Track) (h : T.remainingPreambles ≠ 0) :
    T.advance p = .ok T.preambleBit := by
  rw [Track.advance, if_pos h]

theorem Track.advance_data (p : Params) (T : Track) (h : T.remainingPreambles = 0) (hc : T.bytesSent.toNat ≤ p.maxPacketSize) :
    T.advance p = .ok ((T.giveBit (decide (T.bitsSent ≠ 0 ∧
      (T.transmitBuffer.read T.bytesSent.toNat).getLsbD (8 - T.bitsSent.val) = true))).moveCursor p) := by
  rw [Track.advance, if_neg (by simpa using h), Track.resolveBit_inside p.maxPacketSize T _ hc]

theorem Track.advance_outside (p : Params) (T : Track) (h : T.remainingPreambles = 0) (hc : p.maxPacketSize < T.bytesSent.toNat) :
    T.advance p = .error (.bufferIndexOutside T.bytesSent.toNat) := by
  rw [Track.advance, if_neg (by simpa using h), Track.resolveBit_outside p.maxPacketSize T _ hc]

/-- Everything `advance` can answer next: a preamble bit, or a data bit (of either value) and the cursor moved. -/
theorem Track.advance_cases (p : Params) (T U : Track) (h : T.advance p = .ok U) :
    (T.remainingPreambles ≠ 0 ∧ U = T.preambleBit) ∨
    (T.remainingPreambles = 0 ∧ T.bytesSent.toNat ≤ p.maxPacketSize ∧ ∃ b, U = (T.giveBit b).moveCursor p) := by
  by_cases hp : T.remainingPreambles = 0
  · by_cases hc : T.bytesSent.toNat ≤ p.maxPacketSize
    · rw [Track.advance_data p T hp hc] at h
      exact .inr ⟨hp, hc, _, by injection h with h; exact h.symm⟩
    · rw [Track.advance_outside p T hp (by omega)] at h
      cases h
  · rw [Track.advance_preamble p T hp] at h
    exact .inl ⟨hp, by injection h with h; exact h.symm⟩

/-- While the cursor is inside the buffer `advance` completes. -/
theorem Track.advance_completes (p : Params) (T : Track) (hc : T.bytesSent.toNat ≤ p.maxPacketSize) : ∃ U, T.advance p = .ok U := by
  by_cases hp : T.remainingPreambles = 0
  · exact ⟨_, Track.advance_data p T hp hc⟩
  · exact ⟨_, Track.advance_preamble p T hp⟩

/-- Everything the bit cursor can do: one bit on, one byte on, or over the packet boundary. -/
theorem Track.moveCursor_cases (p : Params) (T : Track) :
    (∃ k : Fin 9, k.val = T.bitsSent.val + 1 ∧ T.moveCursor p = { T with bitsSent := k }) ∨
    (T.bitsSent = 8 ∧ (T.bytesSent + 1).toNat < T.transmitLength.toNat ∧
      T.moveCursor p = { T with bitsSent := 0, bytesSent := T.bytesSent + 1 }) ∨
    (T.bitsSent = 8 ∧ T.transmitLength.toNat ≤ (T.bytesSent + 1).toNat ∧
      T.moveCursor p = Track.packetBoundary p { T with bitsSent := 0, bytesSent := T.bytesSent + 1 }) := by
  unfold Track.moveCursor
  split
  · exact .inl ⟨_, rfl, rfl⟩
  · rename_i h
    have h8 : T.bitsSent = 8 := Fin.ext (by have := T.bitsSent.isLt; show T.bitsSent.val = 8; omega)
    by_cases he : T.transmitLength.toNat ≤ (T.bytesSent + 1).toNat
    · exact .inr (.inr ⟨h8, he, if_pos (decide_eq_true he)⟩)
    · exact .inr (.inl ⟨h8, by omega, if_neg (by rw [Track.packetEnd, decide_eq_true_eq]; exact he)⟩)

/-- Everything the packet boundary can do, by priority. -/
theorem Track.packetBoundary_cases (p : Params) (T : Track) :
    (T.transmitRepeats ≠ 0 ∧ T.packetBoundary p = { T with
      bytesSent := 0, remainingPreambles := T.requiredPreambles, transmitRepeats := T.transmitRepeats - 1 }) ∨
    (T.transmitRepeats = 0 ∧ T.packetPending = true ∧ T.packetBoundary p = { T with
      bytesSent := 0, remainingPreambles := T.requiredPreambles,
      transmitBuffer := Memory.copy T.transmitBuffer T.pendingBuffer (p.maxPacketSize + 1),
      transmitLength := T.pendingLength, transmitRepeats := T.pendingRepeats, packetPending := false,
      sentResetsSincePacket := 0 }) ∨
    (T.transmitRepeats = 0 ∧ T.packetPending = false ∧ T.packetBoundary p = { T with
      bytesSent := 0, remainingPreambles := T.requiredPreambles,
      transmitBuffer := T.transmitBuffer.writeBytes 0 (fillerBytes p T.isMainTrack), transmitLength := 3,
      transmitRepeats := 0, sentResetsSincePacket := countReset T.sentResetsSincePacket }) := by
  unfold Track.packetBoundary Track.choosePacket
  by_cases hr : T.transmitRepeats = 0
  · cases hp : T.packetPending
    · exact .inr (.inr ⟨hr, rfl, (if_neg (not_not.mpr hr)).trans (if_neg (by decide))⟩)
    · exact .inr (.inl ⟨hr, rfl, (if_neg (not_not.mpr hr)).trans (if_pos rfl)⟩)
  · exact .inl ⟨hr, if_pos hr⟩

theorem fillerBytes_length (p : Params) (b : Bool) : (fillerBytes p b).length = 3 := by
  obtain ⟨x, y, e⟩ := p.filler b
  rw [e]
  rfl

/-- The counter of filler loads stays at or below the cap. -/
theorem countReset_le (n : BitVec 8) (h : n.toNat ≤ resetsCap) : (countReset n).toNat ≤ resetsCap := by
  unfold countReset resetsCap at *
  split
  · have : (n + 1).toNat = (n.toNat + 1) % 256 := by simp
    omega
  · exact h

/-- A packet stays a packet in a buffer that reads the same below its length. -/
theorem Memory.isPacket_congr (m m' : Memory) (len : Nat) (h1 : 1 ≤ len) (h : ∀ i, i < len → m'.read i = m.read i)
    (hp : m.isPacket len) : m'.isPacket len := by
  unfold Memory.isPacket at *
  rw [h _ (by omega), Memory.bytes_congr m' m (len - 1) fun i hi => h i (by omega)]
  exact hp

/-- A payload with its checksum behind it, stored from cell 0, is a packet. -/
theorem Memory.isPacket_stored (m : Memory) (bs : List Byte) (h : m.wf = true) :
    (m.writeBytes 0 (bs ++ [xorAll bs])).isPacket (bs.length + 1) := by
  have r : ∀ k (hk : k < (bs ++ [xorAll bs]).length),
      (m.writeBytes 0 (bs ++ [xorAll bs])).read k = (bs ++ [xorAll bs])[k] := fun k hk => by
    simpa using Memory.read_writeBytes m 0 k _ h hk
  have e : (m.writeBytes 0 (bs ++ [xorAll bs])).bytes bs.length = bs := by
    apply List.ext_getElem
    · simp [Memory.bytes]
    · intro i h1 h2
      simp only [Memory.bytes, List.getElem_map, List.getElem_range]
      rw [r i (by simp; omega), List.getElem_append_left h2]
  show (m.writeBytes 0 (bs ++ [xorAll bs])).read bs.length = xorAll ((m.writeBytes 0 (bs ++ [xorAll bs])).bytes bs.length)
  rw [e, r bs.length (by simp)]
  simp

/-- A filler packet stored from cell 0 is a packet. -/
theorem Memory.isPacket_filler (m : Memory) (p : Params) (b : Bool) (h : m.wf = true) :
    (m.writeBytes 0 (fillerBytes p b)).isPacket 3 := by
  obtain ⟨x, y, e⟩ := p.filler b
  have hs := Memory.isPacket_stored m [x, y] h
  rw [e]
  simpa [xorAll] using hs

/-! ### The bounds of a track are kept -/

/-- A track is inside its bounds at reset. -/
theorem Track.reset_inv (p : Params) (b : Bool) : (Track.reset p b).Inv p b := by
  have hn := p.size
  have hq := p.preambles b
  have hr : (BitVec.ofNat 8 (preambleBits p b + 1)).toNat = preambleBits p b + 1 := by rw [BitVec.toNat_ofNat]; omega
  constructor
  · rfl
  · exact hr
  · simp [Track.reset]
  · simp [Track.reset, fillerLen]
  · simp [Track.reset, fillerLen]; omega
  · simp [Track.reset, fillerLen]
  · exact le_refl _
  · simp [Track.reset]
  · simp [Track.reset]
  · simp [Track.reset]
  · simp [Track.reset]
  · exact Memory.isPacket_filler [] p b rfl
  · exact ⟨Memory.wf_writeBytes _ _ _ rfl, Memory.below_writeBytes _ _ _ _ (by rw [fillerBytes_length]; omega) rfl⟩
  · exact ⟨rfl, rfl⟩

/-- A track inside its bounds but for its cursors and its state: what the packet boundary needs to put the bounds back. -/
theorem Track.packetBoundary_inv (p : Params) (b : Bool) (T : Track) (w : Wave) (k : Fin 9) (y : BitVec 8)
    (h : T.Inv p b) (hw : w ≠ .pending) :
    (Track.packetBoundary p { T with state := w, bitsSent := k, bytesSent := y }).Inv p b := by
  have hn := p.size.1
  rcases Track.packetBoundary_cases p { T with state := w, bitsSent := k, bytesSent := y } with
    ⟨-, e⟩ | ⟨-, hp, e⟩ | ⟨-, hp, e⟩ <;> rw [e]
  · exact { h with notPending := hw, cursor := h.lengthPos, preambles := le_refl _ }
  · have hp' : T.packetPending = true := hp
    exact
      { h with
        notPending := hw
        lengthPos := h.pendingPos hp'
        lengthLe := h.pendingLe hp'
        cursor := h.pendingPos hp'
        preambles := le_refl _
        resets := by simp
        pendingPos := by simp
        pendingLe := by simp
        pendingPacket := by simp
        transmitPacket := Memory.isPacket_congr T.pendingBuffer _ _ (h.pendingPos hp')
          (fun i hi => Memory.read_copy _ _ _ _ h.transmitBuffer.1 (lt_of_lt_of_le hi (h.pendingLe hp')))
          (h.pendingPacket hp')
        transmitBuffer := ⟨Memory.wf_copy _ _ _ h.transmitBuffer.1,
          Memory.below_copy _ _ _ _ (le_refl _) h.transmitBuffer.2⟩ }
  · exact
      { h with
        notPending := hw
        lengthPos := by simp
        lengthLe := by simp; omega
        cursor := by simp
        preambles := le_refl _
        resets := countReset_le _ h.resets
        transmitPacket := Memory.isPacket_filler _ _ _ h.transmitBuffer.1
        transmitBuffer := ⟨Memory.wf_writeBytes _ _ _ h.transmitBuffer.1,
          Memory.below_writeBytes _ _ _ _ (by rw [fillerBytes_length]; omega) h.transmitBuffer.2⟩ }

/-- A guarded decrement does not wrap (R129). -/
theorem toNat_pred (n : BitVec 8) (h : n ≠ 0) : (n - 1).toNat = n.toNat - 1 := by
  have : n.toNat ≠ 0 := fun h0 => h (BitVec.eq_of_toNat_eq h0)
  have : n.toNat < 256 := n.isLt
  have : (n - 1).toNat = (256 - 1 + n.toNat) % 256 := BitVec.toNat_sub n 1
  omega

/-- An increment below the top does not wrap (R129). -/
theorem toNat_succ (n : BitVec 8) (h : n.toNat < 255) : (n + 1).toNat = n.toNat + 1 := by
  have : (n + 1).toNat = (n.toNat + 1) % 256 := BitVec.toNat_add n 1
  omega

theorem giveBit_notPending (T : Track) (b : Bool) : (T.giveBit b).state ≠ .pending := by cases b <;> simp [Track.giveBit]

/-- `advance` puts a track that the table transition has taken to `PENDING` back inside its bounds. -/
theorem Track.advance_inv (p : Params) (b : Bool) (T U : Track) (w : Wave) (h : T.Inv p b)
    (e : Track.advance p { T with state := w } = .ok U) : U.Inv p b := by
  rcases Track.advance_cases p _ U e with ⟨hp, rfl⟩ | ⟨-, -, c, rfl⟩
  · exact
      { h with
        notPending := by simp [Track.preambleBit, Track.giveBit]
        preambles := by
          have h1 := h.preambles
          show (T.remainingPreambles - 1).toNat ≤ T.requiredPreambles.toNat
          rw [toNat_pred T.remainingPreambles hp]
          omega }
  · have hw := giveBit_notPending { T with state := w } c
    rcases Track.moveCursor_cases p (Track.giveBit { T with state := w } c) with
      ⟨k, -, e⟩ | ⟨-, hl, e⟩ | ⟨-, -, e⟩ <;> rw [e]
    · exact { h with notPending := hw }
    · exact { h with notPending := hw, cursor := hl }
    · exact Track.packetBoundary_inv p b T _ 0 (T.bytesSent + 1) h hw

/-- Step and resolve keep the bounds. -/
theorem Track.resolve_inv (p : Params) (b : Bool) (T U : Track) (h : T.Inv p b)
    (e : T.step.resolve p = .ok U) : U.Inv p b := by
  unfold Track.resolve at e
  split at e
  · exact Track.advance_inv p b T U _ h e
  · rename_i hs
    injection e with e
    rw [← e]
    exact { h with notPending := hs }

/-- The cursor of a track inside its bounds is inside the buffer. -/
theorem Track.Inv.inside {p : Params} {b : Bool} {T : Track} (h : T.Inv p b) : T.bytesSent.toNat ≤ p.maxPacketSize := by
  have := h.cursor
  have := h.lengthLe
  omega

theorem Track.resolve_completes (p : Params) (T : Track) (h : T.bytesSent.toNat ≤ p.maxPacketSize) : ∃ U, T.step.resolve p = .ok U := by
  unfold Track.resolve
  split
  · exact Track.advance_completes p T.step h
  · exact ⟨_, rfl⟩

end Sys2Proof.Machine
end

