-- ==== Sys2Proof/Laws/Dispatcher.lean ====
section
/-! SUPPORT. Everything the scheduler, the detector and the tick can do, each said once, and that they keep the bounds of
R44. -/

namespace Sys2Proof.Machine

/-! ### The scheduler -/

theorem PortArgs.payload_length (a : PortArgs) : a.payload.length = a.argCount.toNat := by simp [PortArgs.payload]

/-- Everything `schedulePacket` can do: nothing (no such track, or the payload too long), the hold, or the stored packet. -/
theorem execSchedulePacket_cases (trk : TrackSel) (s : State) :
    execSchedulePacket trk s = .next s ∨
    (∃ T, s.track? trk = some T ∧ s.port.args.argCount.toNat ≤ s.par.maxPacketSize ∧ T.packetPending = true ∧
      execSchedulePacket trk s = .next (s.holdFor trk)) ∨
    (∃ T, s.track? trk = some T ∧ s.port.args.argCount.toNat ≤ s.par.maxPacketSize ∧ T.packetPending = false ∧
      execSchedulePacket trk s = .next (s.setTrack trk (T.storePacket s.port.args.payload s.port.args.argRepeats))) := by
  unfold execSchedulePacket
  cases h : s.track? trk with
  | none => exact .inl rfl
  | some T =>
    by_cases ho : s.par.maxPacketSize < s.port.args.argCount.toNat
    · exact .inl (if_pos (decide_eq_true ho))
    · have ho' : s.oversized = false := decide_eq_false ho
      cases hp : T.packetPending
      · exact .inr (.inr ⟨T, rfl, by omega, hp, by simp [ho', hp]⟩)
      · exact .inr (.inl ⟨T, rfl, by omega, hp, by simp [ho', hp]⟩)

/-- A stored packet keeps the bounds of the track. -/
theorem Track.storePacket_inv (p : Params) (b : Bool) (T : Track) (bs : List Byte) (reps : BitVec 8) (h : T.Inv p b)
    (hb : bs.length ≤ p.maxPacketSize) : (T.storePacket bs reps).Inv p b := by
  have hn := p.size.2
  have hl : (BitVec.ofNat 8 (bs.length + 1)).toNat = bs.length + 1 := by rw [BitVec.toNat_ofNat]; omega
  exact
    { h with
      resets := Nat.zero_le _
      pendingPos := fun _ => by show 1 ≤ (BitVec.ofNat 8 (bs.length + 1)).toNat; omega
      pendingLe := fun _ => by show (BitVec.ofNat 8 (bs.length + 1)).toNat ≤ p.maxPacketSize + 1; omega
      pendingPacket := fun _ => by
        show Memory.isPacket _ (BitVec.ofNat 8 (bs.length + 1)).toNat
        rw [hl]
        exact Memory.isPacket_stored _ _ h.pendingBuffer.1
      pendingBuffer := ⟨Memory.wf_writeBytes _ _ _ h.pendingBuffer.1,
        Memory.below_writeBytes _ _ _ _ (by simp; omega) h.pendingBuffer.2⟩ }

/-! ### The detector -/

/-- Step 2 of the detector as a maximum. -/
theorem AckSession.sample_eq (S : AckSession) (c : Nat) :
    S.sample c = { S with ackMaxCurrent := max S.ackMaxCurrent c } := by
  unfold AckSession.sample
  split
  · rw [max_eq_right (by omega)]
  · rw [max_eq_left (by omega)]

/-- Everything the detector tick can do: the timeout; a sample above the threshold, with the pulse's start noted or already
noted; a sample at or below it outside a pulse; the end of a pulse, accepted or rejected. -/
theorem Prog.sampleTick_cases (g : CfgRegs) (c : Nat) (us ms : Time) (p : Prog) :
    (6 < p.track.sentResetsSincePacket.toNat ∧ p.sampleTick g c us ms = { p with session :=
      { p.session with ackCheckDuration := ms - p.session.ackCheckStart, ackPending := false } }) ∨
    (p.track.sentResetsSincePacket.toNat ≤ 6 ∧ p.session.ackThreshold < c ∧
      p.sampleTick g c us ms = { p with session := { p.session with
        ackMaxCurrent := max p.session.ackMaxCurrent c,
        ackPulseStart := if p.session.ackPulseStart = 0 then us else p.session.ackPulseStart } }) ∨
    (p.track.sentResetsSincePacket.toNat ≤ 6 ∧ c ≤ p.session.ackThreshold ∧ p.session.ackPulseStart = 0 ∧
      p.sampleTick g c us ms = { p with session := { p.session with
        ackMaxCurrent := max p.session.ackMaxCurrent c } }) ∨
    (p.track.sentResetsSincePacket.toNat ≤ 6 ∧ c ≤ p.session.ackThreshold ∧ p.session.ackPulseStart ≠ 0 ∧
      g.inWindow (us - p.session.ackPulseStart) = true ∧
      p.sampleTick g c us ms =
        { track := { p.track with transmitRepeats := 0 }
          session := { p.session with
            ackMaxCurrent := max p.session.ackMaxCurrent c, ackPulseDuration := us - p.session.ackPulseStart,
            ackCheckDuration := ms - p.session.ackCheckStart, ackDetected := true, ackPending := false } }) ∨
    (p.track.sentResetsSincePacket.toNat ≤ 6 ∧ c ≤ p.session.ackThreshold ∧ p.session.ackPulseStart ≠ 0 ∧
      g.inWindow (us - p.session.ackPulseStart) = false ∧
      p.sampleTick g c us ms = { p with session := { p.session with
        ackMaxCurrent := max p.session.ackMaxCurrent c, ackPulseDuration := us - p.session.ackPulseStart,
        ackPulseStart := 0 } }) := by
  unfold Prog.sampleTick
  by_cases ht : 6 < p.track.sentResetsSincePacket.toNat
  · exact .inl ⟨ht, if_pos (decide_eq_true ht)⟩
  · have ht' : p.track.timedOut = false := decide_eq_false ht
    have ht6 : p.track.sentResetsSincePacket.toNat ≤ 6 := by omega
    refine .inr ?_
    simp only [ht', Bool.false_eq_true, if_false, AckSession.sample_eq, AckSession.over, AckSession.inPulse,
      AckSession.risingEdge, AckSession.measure, AckSession.accept, AckSession.closeAck, AckSession.discard,
      decide_eq_true_eq, bne_iff_ne]
    by_cases ho : p.session.ackThreshold < c
    · refine .inl ⟨ht6, ho, ?_⟩
      by_cases hs : p.session.ackPulseStart = 0
      · simp only [if_pos ho, if_neg (not_not.mpr hs), if_pos hs]
      · simp only [if_pos ho, if_pos hs, if_neg hs]
    · refine .inr ?_
      have hc : c ≤ p.session.ackThreshold := by omega
      simp only [if_neg ho]
      by_cases hs : p.session.ackPulseStart = 0
      · exact .inl ⟨ht6, hc, hs, by simp only [if_neg (not_not.mpr hs)]⟩
      · refine .inr ?_
        simp only [ne_eq, hs, not_false_eq_true, if_true]
        cases hw : g.inWindow (us - p.session.ackPulseStart)
        · exact .inr ⟨ht6, hc, trivial, rfl, rfl⟩
        · exact .inl ⟨ht6, hc, trivial, rfl, rfl⟩

/-- The registers the detector never writes: of the track all but `transmitRepeats`, of the session the three that belong
to the control context. -/
theorem Prog.sampleTick_frame (g : CfgRegs) (c : Nat) (us ms : Time) (p : Prog) :
    (∃ r, (p.sampleTick g c us ms).track = { p.track with transmitRepeats := r }) ∧
    (p.sampleTick g c us ms).session.ackBaseline = p.session.ackBaseline ∧
    (p.sampleTick g c us ms).session.ackThreshold = p.session.ackThreshold ∧
    (p.sampleTick g c us ms).session.ackCheckStart = p.session.ackCheckStart := by
  rcases Prog.sampleTick_cases g c us ms p with ⟨_, e⟩ | ⟨_, _, e⟩ | ⟨_, _, _, e⟩ | ⟨_, _, _, _, e⟩ | ⟨_, _, _, _, e⟩ <;>
    rw [e] <;> exact ⟨⟨_, rfl⟩, rfl, rfl, rfl⟩

/-- The session keeps its bounds. -/
theorem Prog.sampleTick_session_inv (g : CfgRegs) (c w : Nat) (us ms : Time) (p : Prog) (hc : c < 2 ^ w)
    (h : p.session.Inv w) (ho : p.session.ackPending = true) : (p.sampleTick g c us ms).session.Inv w := by
  have hd : p.session.ackDetected = false := by
    cases hd : p.session.ackDetected
    · rfl
    · have := h.detectedClosed hd; rw [ho] at this; cases this
  have hm : max p.session.ackMaxCurrent c < 2 ^ w := max_lt h.maxCurrent hc
  rcases Prog.sampleTick_cases g c us ms p with ⟨_, e⟩ | ⟨_, _, e⟩ | ⟨_, _, _, e⟩ | ⟨_, _, _, _, e⟩ | ⟨_, _, _, _, e⟩ <;>
    rw [e]
  · exact { h with detectedClosed := fun _ => rfl }
  · exact { h with maxCurrent := hm }
  · exact { h with maxCurrent := hm }
  · exact { h with maxCurrent := hm, detectedClosed := fun _ => rfl }
  · exact { h with maxCurrent := hm }

/-! ### The tick -/

/-- What steps 4 to 6 of the tick can do on the programming side: the next bit resolved, or the table transition alone, or
that with the detector. -/
theorem State.progTick_cases (s : State) (p q : Prog) (h : s.progTick p = .ok q) :
    (nextWave p.track.state = .pending ∧ ∃ U, p.track.step.advance s.par = .ok U ∧
      q = { p with track := U }) ∨
    (nextWave p.track.state ≠ .pending ∧ p.session.ackPending = false ∧ q = { p with track := p.track.step }) ∨
    (nextWave p.track.state ≠ .pending ∧ p.session.ackPending = true ∧
      q = s.detect { p with track := p.track.step }) := by
  unfold State.progTick at h
  by_cases hp : nextWave p.track.state = .pending
  · have hp' : ({ p with track := p.track.step } : Prog).track.state = .pending := hp
    rw [if_pos hp'] at h
    split at h
    · rename_i U hU
      injection h with h
      exact .inl ⟨hp, U, hU, h.symm⟩
    · cases h
  · have hp' : ({ p with track := p.track.step } : Prog).track.state ≠ .pending := hp
    rw [if_neg hp'] at h
    cases ha : p.session.ackPending
    · rw [if_neg (by simp [ha])] at h
      injection h with h
      exact .inr (.inl ⟨hp, rfl, h.symm⟩)
    · rw [if_pos ha] at h
      injection h with h
      exact .inr (.inr ⟨hp, rfl, h.symm⟩)

/-- The detector tick reads only the configuration, the inputs and the width of a current. -/
theorem State.progTick_congr (s s' : State) (p : Prog) (hp : s.par = s'.par) (hc : s.cfg = s'.cfg)
    (he : s.env = s'.env) : s.progTick p = s'.progTick p := by
  simp only [State.progTick, State.detect, State.drawCurrent, hp, hc, he]

theorem State.tickMain_eq (s : State) :
    s.tickMain = match s.main.step.resolve s.par with
      | .ok T => .next { s with
          main := T, out := s.out ++ [.setSignal .main (levelOf s.main.state)], mainSignal := levelOf s.main.state }
      | .error e => .fault e := by
  have e := State.onTrack_some (s.setSignal .main (levelOf s.main.state)) .main
    (fun T => T.step.resolve s.par) s.main rfl
  rw [show s.tickMain = _ from e]
  cases s.main.step.resolve s.par <;> rfl

/-- Everything the main-only tick can answer next. -/
theorem State.tickMain_next (s t : State) (h : s.tickMain = .next t) :
    ∃ T, s.main.step.resolve s.par = .ok T ∧ t = { s with
      main := T, out := s.out ++ [.setSignal .main (levelOf s.main.state)], mainSignal := levelOf s.main.state } := by
  rw [State.tickMain_eq] at h
  cases hT : s.main.step.resolve s.par with
  | error e => rw [hT] at h; cases h
  | ok T =>
    rw [hT] at h
    injection h with h
    exact ⟨T, rfl, h.symm⟩

/-- The main-only tick completes where the main track's step does. -/
theorem State.tickMain_ok (s : State) (T : Track) (h : s.main.step.resolve s.par = .ok T) :
    s.tickMain = .next { s with
      main := T, out := s.out ++ [.setSignal .main (levelOf s.main.state)], mainSignal := levelOf s.main.state } := by
  rw [State.tickMain_eq, h]

/-- The state after the two levels of a tick have been asserted and the main track has moved. -/
def State.afterMain (s : State) (p : Prog) (T : Track) : State := { s with
  main := T, out := s.out ++ [.setSignal .main (levelOf s.main.state), .setSignal .prog (s.progLevel p)],
  mainSignal := levelOf s.main.state, progSignal := s.progLevel p }

theorem State.tickBoth_eq (s : State) (p : Prog) :
    s.tickBoth p = match s.main.step.resolve s.par with
      | .ok T =>
        match (s.afterMain p T).progTick p with
        | .ok q => .next { s.afterMain p T with prog := some q }
        | .error e => .fault e
      | .error e => .fault e := by
  have hm : ((s.setSignal .main (levelOf s.main.state)).setSignal .prog (s.progLevel p)).mainTick =
      match s.main.step.resolve s.par with
      | .ok T => .next (s.afterMain p T)
      | .error e => .fault e := by
    have e := State.onTrack_some ((s.setSignal .main (levelOf s.main.state)).setSignal .prog (s.progLevel p)) .main
      (fun T => T.step.resolve s.par) s.main rfl
    rw [show ((s.setSignal .main (levelOf s.main.state)).setSignal .prog (s.progLevel p)).mainTick = _ from e]
    cases s.main.step.resolve s.par with
    | error e => rfl
    | ok T =>
      simp [State.setTrack, State.setSignal, State.afterMain]
  unfold State.tickBoth
  simp only [hm]
  cases s.main.step.resolve s.par with
  | error e => rfl
  | ok T => rfl

/-- Everything the two-track tick can answer next. -/
theorem State.tickBoth_next (s t : State) (p : Prog) (h : s.tickBoth p = .next t) :
    ∃ T q, s.main.step.resolve s.par = .ok T ∧ s.progTick p = .ok q ∧
      t = { s.afterMain p T with prog := some q } := by
  rw [State.tickBoth_eq] at h
  cases hT : s.main.step.resolve s.par with
  | error e => rw [hT] at h; cases h
  | ok T =>
    rw [hT] at h
    simp only at h
    rw [State.progTick_congr (s.afterMain p T) s p rfl rfl rfl] at h
    cases hq : s.progTick p with
    | error e => rw [hq] at h; cases h
    | ok q =>
      rw [hq] at h
      injection h with h
      exact ⟨T, q, rfl, rfl, h.symm⟩

/-- The two-track tick completes where both tracks' steps do. -/
theorem State.tickBoth_ok (s : State) (p q : Prog) (T : Track) (hT : s.main.step.resolve s.par = .ok T)
    (hq : s.progTick p = .ok q) : s.tickBoth p = .next { s.afterMain p T with prog := some q } := by
  rw [State.tickBoth_eq, hT]
  simp only
  rw [State.progTick_congr (s.afterMain p T) s p rfl rfl rfl, hq]

/-- Steps 4 to 6 complete where the programming track's cursor is inside its buffer. -/
theorem State.progTick_completes (s : State) (p : Prog) (h : p.track.bytesSent.toNat ≤ s.par.maxPacketSize) :
    ∃ q, s.progTick p = .ok q := by
  obtain ⟨U, hU⟩ := Track.advance_completes s.par p.track.step h
  unfold State.progTick
  simp only [hU]
  split
  · exact ⟨_, rfl⟩
  · split <;> exact ⟨_, rfl⟩

end Sys2Proof.Machine
end

