-- ==== Sys2Proof/Laws/PerInstr.lean ====
section
/-! SUPPORT. Statements about an instruction as syntax, one lemma for each constructor. -/

namespace Sys2Proof.Laws

/-- The word of an instruction fits the width of the space it is read in, so `decode` looks at every bit of it. -/
def EncodeFits.Statement (i : Instr) : Prop := ∀ c, encode i = some c → c.word.toNat < 2 ^ c.space.width

/-- An instruction without a code. -/
theorem EncodeFits.of_none (i : Instr) (h : encode i = none) : EncodeFits.Statement i := by
  intro c hc; rw [h] at hc; cases hc

/-- An instruction with the code `c`. -/
theorem EncodeFits.of_some (i : Instr) (c : Code) (h : encode i = some c) (hw : c.word.toNat < 2 ^ c.space.width) :
    EncodeFits.Statement i := by
  intro c' hc; rw [h] at hc; injection hc with hc; rw [← hc]; exact hw

theorem EncodeFits.waveStart (t : TrackSel) : EncodeFits.Statement (.waveStart t) := by
  cases t <;> exact EncodeFits.of_some _ _ rfl (by decide)
theorem EncodeFits.waveMid1 (t : TrackSel) : EncodeFits.Statement (.waveMid1 t) := by
  cases t <;> exact EncodeFits.of_some _ _ rfl (by decide)
theorem EncodeFits.waveHigh0 (t : TrackSel) : EncodeFits.Statement (.waveHigh0 t) := by
  cases t <;> exact EncodeFits.of_some _ _ rfl (by decide)
theorem EncodeFits.waveMid0 (t : TrackSel) : EncodeFits.Statement (.waveMid0 t) := by
  cases t <;> exact EncodeFits.of_some _ _ rfl (by decide)
theorem EncodeFits.waveLow0 (t : TrackSel) : EncodeFits.Statement (.waveLow0 t) := by
  cases t <;> exact EncodeFits.of_some _ _ rfl (by decide)
theorem EncodeFits.wavePending (t : TrackSel) : EncodeFits.Statement (.wavePending t) := by
  cases t <;> exact EncodeFits.of_some _ _ rfl (by decide)
theorem EncodeFits.waveReserved6 : EncodeFits.Statement .waveReserved6 :=
  EncodeFits.of_some _ _ rfl (by decide)
theorem EncodeFits.waveReserved7 : EncodeFits.Statement .waveReserved7 :=
  EncodeFits.of_some _ _ rfl (by decide)
theorem EncodeFits.schedulePacket (trk : TrackSel) : EncodeFits.Statement (.schedulePacket trk) := by
  cases trk <;> exact EncodeFits.of_some _ _ rfl (by decide)
theorem EncodeFits.setAckBaseline (trk : TrackSel) : EncodeFits.Statement (.setAckBaseline trk) := by
  cases trk <;> exact EncodeFits.of_some _ _ rfl (by decide)
theorem EncodeFits.setAckPending (trk : TrackSel) : EncodeFits.Statement (.setAckPending trk) := by
  cases trk <;> exact EncodeFits.of_some _ _ rfl (by decide)
theorem EncodeFits.getAck (trk : TrackSel) : EncodeFits.Statement (.getAck trk) := by
  cases trk <;> exact EncodeFits.of_some _ _ rfl (by decide)
theorem EncodeFits.setPowerMode (trk : TrackSel) : EncodeFits.Statement (.setPowerMode trk) := by
  cases trk <;> exact EncodeFits.of_some _ _ rfl (by decide)
theorem EncodeFits.getPowerMode (trk : TrackSel) : EncodeFits.Statement (.getPowerMode trk) := by
  cases trk <;> exact EncodeFits.of_some _ _ rfl (by decide)
theorem EncodeFits.setPowerModeId (trk : TrackSel) : EncodeFits.Statement (.setPowerModeId trk) := by
  cases trk <;> exact EncodeFits.of_some _ _ rfl (by decide)
theorem EncodeFits.getPowerModeId (trk : TrackSel) : EncodeFits.Statement (.getPowerModeId trk) := by
  cases trk <;> exact EncodeFits.of_some _ _ rfl (by decide)
theorem EncodeFits.poll (trk : TrackSel) : EncodeFits.Statement (.poll trk) := by
  cases trk <;> exact EncodeFits.of_some _ _ rfl (by decide)
theorem EncodeFits.setConfig (trk : TrackSel) : EncodeFits.Statement (.setConfig trk) := by
  cases trk <;> exact EncodeFits.of_some _ _ rfl (by decide)
theorem EncodeFits.opReserved0 (low : BitVec 4) : EncodeFits.Statement (.opReserved0 low) :=
  EncodeFits.of_some _ _ rfl (by revert low; decide)
theorem EncodeFits.opReservedB (low : BitVec 4) : EncodeFits.Statement (.opReservedB low) :=
  EncodeFits.of_some _ _ rfl (by revert low; decide)
theorem EncodeFits.opReservedC (low : BitVec 4) : EncodeFits.Statement (.opReservedC low) :=
  EncodeFits.of_some _ _ rfl (by revert low; decide)
theorem EncodeFits.opReservedD (low : BitVec 4) : EncodeFits.Statement (.opReservedD low) :=
  EncodeFits.of_some _ _ rfl (by revert low; decide)
theorem EncodeFits.opReservedE (low : BitVec 4) : EncodeFits.Statement (.opReservedE low) :=
  EncodeFits.of_some _ _ rfl (by revert low; decide)
theorem EncodeFits.opReservedF (low : BitVec 4) : EncodeFits.Statement (.opReservedF low) :=
  EncodeFits.of_some _ _ rfl (by revert low; decide)
theorem EncodeFits.opReservedLowbits (cmd : BitVec 8) : EncodeFits.Statement (.opReservedLowbits cmd) :=
  EncodeFits.of_some _ _ rfl (by revert cmd; decide)
theorem EncodeFits.tick : EncodeFits.Statement .tick :=
  EncodeFits.of_some _ _ rfl (by decide)
theorem EncodeFits.tickMainOnly : EncodeFits.Statement .tickMainOnly :=
  EncodeFits.of_some _ _ rfl (by decide)
theorem EncodeFits.level (t : TrackSel) : EncodeFits.Statement (.level t) :=
  EncodeFits.of_none _ rfl
theorem EncodeFits.step (t : TrackSel) : EncodeFits.Statement (.step t) :=
  EncodeFits.of_none _ rfl
theorem EncodeFits.advance (t : TrackSel) : EncodeFits.Statement (.advance t) :=
  EncodeFits.of_none _ rfl
theorem EncodeFits.packetBoundary (t : TrackSel) : EncodeFits.Statement (.packetBoundary t) :=
  EncodeFits.of_none _ rfl
theorem EncodeFits.sampleTick : EncodeFits.Statement .sampleTick :=
  EncodeFits.of_none _ rfl
theorem EncodeFits.ackResultNoAck : EncodeFits.Statement .ackResultNoAck :=
  EncodeFits.of_some _ _ rfl (by decide)
theorem EncodeFits.ackResultAck : EncodeFits.Statement .ackResultAck :=
  EncodeFits.of_some _ _ rfl (by decide)
theorem EncodeFits.ackResultPending : EncodeFits.Statement .ackResultPending :=
  EncodeFits.of_some _ _ rfl (by decide)
theorem EncodeFits.ackResultReserved3 : EncodeFits.Statement .ackResultReserved3 :=
  EncodeFits.of_some _ _ rfl (by decide)
theorem EncodeFits.levelLow (t : TrackSel) : EncodeFits.Statement (.levelLow t) := by
  cases t <;> exact EncodeFits.of_some _ _ rfl (by decide)
theorem EncodeFits.levelHigh (t : TrackSel) : EncodeFits.Statement (.levelHigh t) := by
  cases t <;> exact EncodeFits.of_some _ _ rfl (by decide)
theorem EncodeFits.bitmask0 (t : TrackSel) : EncodeFits.Statement (.bitmask0 t) := by
  cases t <;> exact EncodeFits.of_some _ _ rfl (by decide)
theorem EncodeFits.bitmask1 (t : TrackSel) : EncodeFits.Statement (.bitmask1 t) := by
  cases t <;> exact EncodeFits.of_some _ _ rfl (by decide)
theorem EncodeFits.bitmask2 (t : TrackSel) : EncodeFits.Statement (.bitmask2 t) := by
  cases t <;> exact EncodeFits.of_some _ _ rfl (by decide)
theorem EncodeFits.bitmask3 (t : TrackSel) : EncodeFits.Statement (.bitmask3 t) := by
  cases t <;> exact EncodeFits.of_some _ _ rfl (by decide)
theorem EncodeFits.bitmask4 (t : TrackSel) : EncodeFits.Statement (.bitmask4 t) := by
  cases t <;> exact EncodeFits.of_some _ _ rfl (by decide)
theorem EncodeFits.bitmask5 (t : TrackSel) : EncodeFits.Statement (.bitmask5 t) := by
  cases t <;> exact EncodeFits.of_some _ _ rfl (by decide)
theorem EncodeFits.bitmask6 (t : TrackSel) : EncodeFits.Statement (.bitmask6 t) := by
  cases t <;> exact EncodeFits.of_some _ _ rfl (by decide)
theorem EncodeFits.bitmask7 (t : TrackSel) : EncodeFits.Statement (.bitmask7 t) := by
  cases t <;> exact EncodeFits.of_some _ _ rfl (by decide)
theorem EncodeFits.bitmask8 (t : TrackSel) : EncodeFits.Statement (.bitmask8 t) := by
  cases t <;> exact EncodeFits.of_some _ _ rfl (by decide)
theorem EncodeFits.idlePacket : EncodeFits.Statement .idlePacket :=
  EncodeFits.of_some _ _ rfl (by decide)
theorem EncodeFits.resetPacket : EncodeFits.Statement .resetPacket :=
  EncodeFits.of_some _ _ rfl (by decide)
theorem EncodeFits.cfgProgTrackSyncMain : EncodeFits.Statement .cfgProgTrackSyncMain :=
  EncodeFits.of_some _ _ rfl (by decide)
theorem EncodeFits.cfgProgTrackBoosted : EncodeFits.Statement .cfgProgTrackBoosted :=
  EncodeFits.of_some _ _ rfl (by decide)
theorem EncodeFits.cfgAckLimit : EncodeFits.Statement .cfgAckLimit :=
  EncodeFits.of_some _ _ rfl (by decide)
theorem EncodeFits.cfgMinAckPulseDuration : EncodeFits.Statement .cfgMinAckPulseDuration :=
  EncodeFits.of_some _ _ rfl (by decide)
theorem EncodeFits.cfgMaxAckPulseDuration : EncodeFits.Statement .cfgMaxAckPulseDuration :=
  EncodeFits.of_some _ _ rfl (by decide)
theorem EncodeFits.cfgReserved5 : EncodeFits.Statement .cfgReserved5 :=
  EncodeFits.of_some _ _ rfl (by decide)
theorem EncodeFits.cfgReserved6 : EncodeFits.Statement .cfgReserved6 :=
  EncodeFits.of_some _ _ rfl (by decide)
theorem EncodeFits.cfgReserved7 : EncodeFits.Statement .cfgReserved7 :=
  EncodeFits.of_some _ _ rfl (by decide)

end Sys2Proof.Laws
end

