-- ==== Sys2Proof/Tests/Slice0.lean ====
section
/-! SUPPORT. Tests. Every expected value is written out from the tables of 30_encoding.md or is a vector V<n> of
95_test_vectors.md; after them, for every obligation with hypotheses, states and operands that meet them. -/

namespace Sys2Proof.Tests

open Sys2Proof Sys2Proof.Machine

/-! ### Helpers -/

/-- A reading of the next state, where there is one. -/
def after {α : Type} (f : State → α) : Result → Option α
  | .next s => some (f s)
  | _ => none

/-- The reset state with definite levels on its outputs. -/
def base : State := { State.reset with mainSignal := .low, progSignal := .low }

/-- `base` with other registers on the main track. -/
def withMain (T : Track) : State := { base with main := T }

/-- `base` with another programming side. -/
def withProg (p : Prog) : State := { base with prog := some p }

/-- `base` without a programming track. -/
def mainOnly : State := { base with prog := none }

/-- A main track at reset but for its position. -/
def mainAt (w : Wave) (rem bytes : BitVec 8) (bits : Fin 9) : Track :=
  { base.main with state := w, remainingPreambles := rem, bytesSent := bytes, bitsSent := bits }

/-- The programming side with a session armed: threshold 160, baseline 100 (section 2.5 of 95_test_vectors.md). -/
def armed : Prog := { Prog.reset Params.default with
  track := { Track.reset Params.default false with transmitRepeats := 3 }
  session := { AckSession.reset with ackBaseline := 100, ackThreshold := 160, ackPending := true } }

/-- `armed` with a pulse in progress since `us`, armed at `ms`. -/
def inPulse (us ms : Time) : Prog :=
  { armed with session := { armed.session with ackPulseStart := us, ackCheckStart := ms } }

/-- The state `s` with the inputs `c`, `us`, `ms`. -/
def drawing (c : Nat) (us ms : Time) (s : State) : State := { s with env := ⟨c, us, ms, []⟩ }

/-- The state `s` with operand registers for a `schedulePacket`. -/
def withPayload (bs : List Byte) (n reps : BitVec 8) (s : State) : State :=
  { s with port := { s.port with args := { s.port.args with argBytes := bs, argCount := n, argRepeats := reps } } }

/-- The position of the main track. -/
def mainPosition (s : State) : Wave × BitVec 8 × BitVec 8 × Fin 9 := s.main.position

/-- Parameters with a booster 2 on the main track. -/
def boosted : Params := { Params.default with chainMain := ⟨0, [2]⟩, ok := by decide }

/-! ### WellFormed -/

/-- R102: a word whose low bits are zero is no `OP_RESERVED_LOWBITS`. -/
theorem test_wf_lowbits_zero : Instr.wf (.opReservedLowbits 0x18) = false := by decide
/-- R102: a reserved operation code is another row's. -/
theorem test_wf_lowbits_reserved_op : Instr.wf (.opReservedLowbits 0xB1) = false := by decide
/-- R102, V81. -/
theorem test_wf_lowbits_good : Instr.wf (.opReservedLowbits 0x11) = true := by decide
/-- R85. -/
theorem test_wf_wave6 : Instr.wf .waveReserved6 = false := by decide
/-- R85. -/
theorem test_wf_wave7 : Instr.wf .waveReserved7 = false := by decide
/-- R93. -/
theorem test_wf_ack3 : Instr.wf .ackResultReserved3 = false := by decide

/-! ### Decoding, words written out from the tables -/

/-- R81: the wave codes, three bits. -/
theorem test_decode_wave (t : TrackSel) :
    decode true ⟨.wave, 0b000, t⟩ = .ok (.waveStart t) ∧ decode true ⟨.wave, 0b001, t⟩ = .ok (.waveMid1 t) ∧
    decode true ⟨.wave, 0b010, t⟩ = .ok (.waveHigh0 t) ∧ decode true ⟨.wave, 0b011, t⟩ = .ok (.waveMid0 t) ∧
    decode true ⟨.wave, 0b100, t⟩ = .ok (.waveLow0 t) ∧ decode true ⟨.wave, 0b101, t⟩ = .ok (.wavePending t) := by
  cases t <;> decide

/-- R85: codes 6 and 7 are refused by name. -/
theorem test_decode_wave_reserved :
    decode true ⟨.wave, 0b110, .main⟩ = .error (.reservedWaveCode 6) ∧
    decode true ⟨.wave, 0b111, .main⟩ = .error (.reservedWaveCode 7) := by decide

/-- R101, R105: the command words of the ten operations, main track. -/
theorem test_decode_port_main :
    decodePort 0b00010000 = .schedulePacket .main ∧ decodePort 0b00100000 = .setAckBaseline .main ∧
    decodePort 0b00110000 = .setAckPending .main ∧ decodePort 0b01000000 = .getAck .main ∧
    decodePort 0b01010000 = .setPowerMode .main ∧ decodePort 0b01100000 = .getPowerMode .main ∧
    decodePort 0b01110000 = .setPowerModeId .main ∧ decodePort 0b10000000 = .getPowerModeId .main ∧
    decodePort 0b10010000 = .poll .main ∧ decodePort 0b10100000 = .setConfig .main := by decide

/-- R101, R105, V82: the same with `CMD[3]` = 1. -/
theorem test_decode_port_prog :
    decodePort 0b00011000 = .schedulePacket .prog ∧ decodePort 0b00101000 = .setAckBaseline .prog ∧
    decodePort 0b00111000 = .setAckPending .prog ∧ decodePort 0b01001000 = .getAck .prog ∧
    decodePort 0b01011000 = .setPowerMode .prog ∧ decodePort 0b01101000 = .getPowerMode .prog ∧
    decodePort 0b01111000 = .setPowerModeId .prog ∧ decodePort 0b10001000 = .getPowerModeId .prog ∧
    decodePort 0b10011000 = .poll .prog ∧ decodePort 0b10101000 = .setConfig .prog := by decide

/-- R102, V80, V81: the reserved command words. -/
theorem test_decode_port_reserved :
    decodePort 0b00000000 = .opReserved0 0b0000 ∧ decodePort 0b10110000 = .opReservedB 0b0000 ∧
    decodePort 0b11000111 = .opReservedC 0b0111 ∧ decodePort 0b11010001 = .opReservedD 0b0001 ∧
    decodePort 0b11101000 = .opReservedE 0b1000 ∧ decodePort 0b11111000 = .opReservedF 0b1000 ∧
    decodePort 0b00010001 = .opReservedLowbits 0b00010001 ∧
    decodePort 0b10101100 = .opReservedLowbits 0b10101100 := by decide

/-- R211, R197: the strobe. -/
theorem test_decode_strobe :
    decode true ⟨.strobe, 1, .main⟩ = .ok .tick ∧ decode false ⟨.strobe, 1, .main⟩ = .ok .tickMainOnly ∧
    decode true ⟨.strobe, 0, .main⟩ = .error .noStrobe := by decide

/-- R93: the result codes. -/
theorem test_decode_ack :
    decode true ⟨.ackResult, 0b00, .main⟩ = .ok .ackResultNoAck ∧
    decode true ⟨.ackResult, 0b01, .main⟩ = .ok .ackResultAck ∧
    decode true ⟨.ackResult, 0b10, .main⟩ = .ok .ackResultPending ∧
    decode true ⟨.ackResult, 0b11, .main⟩ = .error .reservedAckResult := by decide

/-- R94: the level codes. -/
theorem test_decode_level :
    decode true ⟨.level, 0b0, .main⟩ = .ok (.levelLow .main) ∧
    decode true ⟨.level, 0b1, .prog⟩ = .ok (.levelHigh .prog) := by decide

/-- R87: the mask entries. -/
theorem test_decode_mask (t : TrackSel) :
    decode true ⟨.bitmask, 0x00, t⟩ = .ok (.bitmask0 t) ∧ decode true ⟨.bitmask, 0x80, t⟩ = .ok (.bitmask1 t) ∧
    decode true ⟨.bitmask, 0x40, t⟩ = .ok (.bitmask2 t) ∧ decode true ⟨.bitmask, 0x20, t⟩ = .ok (.bitmask3 t) ∧
    decode true ⟨.bitmask, 0x10, t⟩ = .ok (.bitmask4 t) ∧ decode true ⟨.bitmask, 0x08, t⟩ = .ok (.bitmask5 t) ∧
    decode true ⟨.bitmask, 0x04, t⟩ = .ok (.bitmask6 t) ∧ decode true ⟨.bitmask, 0x02, t⟩ = .ok (.bitmask7 t) ∧
    decode true ⟨.bitmask, 0x01, t⟩ = .ok (.bitmask8 t) ∧
    decode true ⟨.bitmask, 0x03, t⟩ = .error (.notAMaskEntry 3) := by
  cases t <;> decide

/-- R91: the filler packets. -/
theorem test_decode_filler :
    decode true ⟨.filler, 0xFF00FF, .main⟩ = .ok .idlePacket ∧ decode true ⟨.filler, 0x000000, .main⟩ = .ok .resetPacket ∧
    decode true ⟨.filler, 0xFF00FE, .main⟩ = .error (.notAFillerPacket 0xFF00FE) := by decide

/-- R40: the register numbers. -/
theorem test_decode_cfg :
    decode true ⟨.cfgReg, 0b000, .main⟩ = .ok .cfgProgTrackSyncMain ∧
    decode true ⟨.cfgReg, 0b001, .main⟩ = .ok .cfgProgTrackBoosted ∧
    decode true ⟨.cfgReg, 0b010, .main⟩ = .ok .cfgAckLimit ∧
    decode true ⟨.cfgReg, 0b011, .main⟩ = .ok .cfgMinAckPulseDuration ∧
    decode true ⟨.cfgReg, 0b100, .main⟩ = .ok .cfgMaxAckPulseDuration ∧
    decode true ⟨.cfgReg, 0b101, .main⟩ = .ok .cfgReserved5 ∧ decode true ⟨.cfgReg, 0b110, .main⟩ = .ok .cfgReserved6 ∧
    decode true ⟨.cfgReg, 0b111, .main⟩ = .ok .cfgReserved7 ∧
    decode true ⟨.cfgReg, 0b1000, .main⟩ = .error (.wordTooWide .cfgReg 8) := by decide

/-- Bare table words (log entry 3): a byte that is a command, a wave code, a filler packet, and a refused code. -/
theorem test_decode_table_word :
    decodeTableWord 8 0x18 = some (.schedulePacket .prog) ∧ decodeTableWord 8 2 = some (.waveHigh0 .main) ∧
    decodeTableWord 24 0xFF00FF = some .idlePacket ∧ decodeTableWord 8 6 = none := by decide

/-! ### Tables, memory, reset -/

/-- V1. -/
theorem test_next_table : [Wave.start, .mid1, .high0, .mid0, .low0, .pending].map nextWave =
    [.pending, .start, .mid0, .low0, .start, .pending] := by decide
/-- V2. -/
theorem test_level_table : [Wave.start, .mid1, .high0, .mid0, .low0, .pending].map levelOf =
    [.high, .low, .high, .low, .low, .low] := by decide
/-- V5. -/
theorem test_mask_table : (List.finRange 9).map bitMask = [0x00, 0x80, 0x40, 0x20, 0x10, 0x08, 0x04, 0x02, 0x01] := by
  decide
/-- V40. -/
theorem test_checksum : xorAll [0xFF, 0xFF] = 0 ∧ xorAll [0xFF] = 0xFF ∧ xorAll [] = 0 ∧
    xorAll [0x03, 0x22, 0x10] = 0x31 := by decide
/-- R46: the buffers at reset are in canonical form and hold the fillers. -/
theorem test_reset_memory :
    base.main.transmitBuffer.wf = true ∧ base.main.pendingBuffer.wf = true ∧
    base.main.transmitBuffer.bytes 6 = [0xFF, 0x00, 0xFF, 0x00, 0x00, 0x00] ∧
    base.prog.map (fun p => p.track.transmitBuffer.bytes 6) = some [0, 0, 0, 0, 0, 0] := by decide
/-- A cell written with what an unlisted cell reads is not listed. -/
theorem test_memory_canonical : Memory.write [(0, 0xFF), (2, 0xFF)] 0 0x00 = [(2, 0xFF)] ∧
    Memory.write [(0, 0xFF), (2, 0xFF)] 1 0x07 = [(0, 0xFF), (1, 0x07), (2, 0xFF)] := by decide

/-! ### The wave rows -/

/-- V12, V10 tick 0: `START` on a preamble bit. -/
theorem test_waveStart : after (fun s => (mainPosition s, s.mainSignal)) (exec (.waveStart .main) base) =
    some ((.mid1, 16, 0, 0), .high) := by decide
/-- V10 tick 1. -/
theorem test_waveMid1 : after (fun s => (mainPosition s, s.mainSignal))
    (exec (.waveMid1 .main) (withMain (mainAt .mid1 16 0 0))) = some ((.start, 16, 0, 0), .low) := by decide
/-- V10 tick 35. -/
theorem test_waveHigh0 : after (fun s => (mainPosition s, s.mainSignal))
    (exec (.waveHigh0 .main) (withMain (mainAt .high0 0 0 1))) = some ((.mid0, 0, 0, 1), .high) := by decide
/-- V10 tick 36. -/
theorem test_waveMid0 : after (fun s => (mainPosition s, s.mainSignal))
    (exec (.waveMid0 .main) (withMain (mainAt .mid0 0 0 1))) = some ((.low0, 0, 0, 1), .low) := by decide
/-- V10 tick 37. -/
theorem test_waveLow0 : after (fun s => (mainPosition s, s.mainSignal))
    (exec (.waveLow0 .main) (withMain (mainAt .low0 0 0 1))) = some ((.start, 0, 0, 1), .low) := by decide
/-- R82, R83: the last row of the two tables. -/
theorem test_wavePending : after (fun s => (mainPosition s, s.mainSignal))
    (exec (.wavePending .main) (withMain (mainAt .pending 0 0 1))) = some ((.mid1, 0, 0, 2), .low) := by decide
/-- R86: a '0' is `H H L L`, a '1' is `H L` (V3, V4). -/
theorem test_bit_levels : bitLevels true = [.high, .low] ∧ bitLevels false = [.high, .high, .low, .low] := by decide
/-- R90: the tick counts of the two filler packets. -/
theorem test_filler_ticks : 2 * 17 + 36 * 3 - 2 * ones [0xFF, 0x00, 0xFF] = 110 ∧
    2 * 23 + 36 * 3 - 2 * ones [0x00, 0x00, 0x00] = 154 := by decide

/-! ### The encoder -/

/-- R111. -/
theorem test_level : after (fun s => s.port.rsp) (exec (.level .main) (withMain (mainAt .high0 0 0 1))) =
    some (.level .high) := by decide
/-- R112. -/
theorem test_step : after (fun s => s.main.state) (exec (.step .main) (withMain (mainAt .low0 0 0 1))) =
    some .start := by decide
/-- V13, V14, V15, V16, V17. -/
theorem test_advance :
    [mainAt .pending 1 0 0, mainAt .pending 0 0 0, mainAt .pending 0 0 1, mainAt .pending 0 1 1,
      mainAt .pending 0 0 8].map (fun T => after mainPosition (exec (.advance .main) (withMain T))) =
    [some (.mid1, 0, 0, 0), some (.high0, 0, 0, 1), some (.mid1, 0, 0, 2), some (.high0, 0, 1, 2),
      some (.mid1, 0, 1, 0)] := by decide
/-- V18. -/
theorem test_advance_boundary :
    after (fun s => (mainPosition s, s.main.transmitBuffer.bytes 3, s.main.transmitLength, s.main.sentResetsSincePacket))
      (exec (.advance .main) (withMain (mainAt .pending 0 2 8))) =
    some ((.mid1, 17, 0, 0), [0xFF, 0x00, 0xFF], 3, 1) := by decide
/-- V22: repeat before pending. -/
theorem test_packetBoundary_repeat :
    after (fun s => (s.main.transmitRepeats, s.main.packetPending, s.main.remainingPreambles))
      (exec (.packetBoundary .main) (withMain { base.main with transmitRepeats := 2, packetPending := true })) =
    some (1, true, 17) := by decide
/-- V23: the pending packet. -/
theorem test_packetBoundary_pending :
    after (fun s => (s.main.transmitBuffer.bytes 4, s.main.transmitLength, s.main.transmitRepeats, s.main.packetPending))
      (exec (.packetBoundary .main) (withMain { base.main with
        pendingBuffer := [(0, 0x03), (1, 0x22), (2, 0x10), (3, 0x31)]
        pendingLength := 4
        pendingRepeats := 2
        packetPending := true })) =
    some ([0x03, 0x22, 0x10, 0x31], 4, 2, false) := by decide
/-- V24, V25, V26. -/
theorem test_idlePacket :
    after (fun s => (s.main.transmitBuffer.bytes 4, s.main.transmitLength, s.main.sentResetsSincePacket))
      (exec .idlePacket (withMain { base.main with
        transmitBuffer := [(0, 0x03), (1, 0x22), (2, 0x10), (3, 0x31)]
        transmitLength := 4
        sentResetsSincePacket := 249 })) = some ([0xFF, 0x00, 0xFF, 0x31], 3, 250) ∧
    after (fun s => s.main.sentResetsSincePacket)
      (exec .idlePacket (withMain { base.main with sentResetsSincePacket := 250 })) = some 250 := by decide
/-- R6: the filler is the parameter's, at a packet boundary too. -/
theorem test_filler_parameter :
    after (fun s => s.main.transmitBuffer.bytes 3) (exec (.packetBoundary .main) { base with
      par := { Params.default with idlePacket := [0x12, 0x34, 0x26], ok := by decide } }) =
    some [0x12, 0x34, 0x26] := by decide
/-- V27. -/
theorem test_resetPacket :
    after (fun s => s.prog.map fun p => (p.track.transmitBuffer.bytes 3, p.track.sentResetsSincePacket))
      (exec .resetPacket (withProg { armed with track := { armed.track with sentResetsSincePacket := 6 } })) =
    some (some ([0, 0, 0], 7)) := by decide
/-- R94. -/
theorem test_level_rows :
    after (fun s => (s.progSignal, s.out)) (exec (.levelHigh .prog) base) = some (.high, [.setSignal .prog .high]) ∧
    after (fun s => (s.mainSignal, s.out)) (exec (.levelLow .main) base) = some (.low, [.setSignal .main .low]) := by
  decide
/-- V6: byte 0xA5 at the nine indexes resolves 0, 1, 0, 1, 0, 0, 1, 0, 1. -/
theorem test_mask_rows :
    (List.finRange 9).map (fun k => after (fun s => bitOf s.main.state)
      (exec (maskInstr k .main) (withMain { base.main with transmitBuffer := [(0, 0xA5)] }))) =
    [false, true, false, true, false, false, true, false, true].map some := by decide

/-! ### The scheduler -/

/-- V34, V36. -/
theorem test_schedulePacket :
    after (fun s => (s.main.pendingBuffer.bytes 4, s.main.pendingLength, s.main.pendingRepeats, s.main.packetPending))
      (exec (.schedulePacket .main) (withPayload [0x03, 0x22, 0x10] 3 2 base)) =
    some ([0x03, 0x22, 0x10, 0x31], 4, 2, true) ∧
    after (fun s => (s.main.pendingBuffer.bytes 6, s.main.pendingLength))
      (exec (.schedulePacket .main) (withPayload [1, 2, 3, 4, 5] 5 255 base)) = some ([1, 2, 3, 4, 5, 1], 6) := by decide
/-- V35, V37. -/
theorem test_schedulePacket_edges :
    after (fun s => (s.main.pendingBuffer.bytes 1, s.main.pendingLength, s.main.packetPending))
      (exec (.schedulePacket .main) (withPayload [] 0 0 base)) = some ([0], 1, true) ∧
    after (fun s => (s.main.packetPending, s.busy))
      (exec (.schedulePacket .main) (withPayload [1, 2, 3, 4, 5, 6] 6 0 base)) = some (false, false) := by decide

/-! ### The detector -/

/-- V41, with `mA2raw` the identity on 60. -/
theorem test_setAckBaseline (h : Config.mA2raw 60 = 60) :
    after (fun s => s.prog.map fun p => (p.session.ackBaseline, p.session.ackThreshold))
      (exec (.setAckBaseline .main) (drawing 100 0 0 base)) = some (some (100, 160)) := by
  show some (some (100 % 2 ^ 16, 100 % 2 ^ 16 + Config.mA2raw 60 % 2 ^ 16)) = _
  rw [h]; decide
/-- V41b: no wrap. -/
theorem test_setAckBaseline_no_wrap (h : Config.mA2raw 60 = 60) :
    after (fun s => s.prog.map fun p => p.session.ackThreshold)
      (exec (.setAckBaseline .main) (drawing 65535 0 0 base)) = some (some 65595) := by
  show some (some (65535 % 2 ^ 16 + Config.mA2raw 60 % 2 ^ 16)) = _
  rw [h]; decide
/-- V56. -/
theorem test_setAckPending :
    after (fun s => s.prog.map Prog.session) (exec (.setAckPending .main) (drawing 0 0 5000 (withProg { armed with
      session := ⟨100, 160, 777, 9, 300, true, false, 4, 35⟩ }))) =
    some (some ⟨100, 160, 0, 0, 0, false, true, 5000, 35⟩) := by decide
/-- V55. -/
theorem test_getAck :
    [(true, false), (true, true), (false, true), (false, false)].map (fun f => after (fun s => s.port.rsp)
      (exec (.getAck .main) (withProg { armed with
        session := { armed.session with ackPending := f.1, ackDetected := f.2 } }))) =
    [some (.ack 2), some (.ack 2), some (.ack 1), some (.ack 0)] := by decide
/-- V42, V49: a pulse of 6000 us is accepted, one of 8001 us is rejected. -/
theorem test_sampleTick :
    after (fun s => s.prog.map fun p => (p.session, p.track.transmitRepeats))
      (exec .sampleTick (drawing 150 7000 9 (withProg (inPulse 1000 0)))) =
    some (some (⟨100, 160, 1000, 6000, 150, true, false, 0, 9⟩, 0)) ∧
    after (fun s => s.prog.map fun p => (p.session, p.track.transmitRepeats))
      (exec .sampleTick (drawing 160 13001 9 (withProg (inPulse 5000 0)))) =
    some (some (⟨100, 160, 0, 8001, 160, false, true, 0, 0⟩, 3)) := by decide
/-- V50, V52, V53: the timeout comes first; an edge at time 0 is not recorded; the clocks wrap. -/
theorem test_sampleTick_corners :
    after (fun s => s.prog.map Prog.session) (exec .sampleTick (drawing 900 0 1071 (withProg { inPulse 5000 1000 with
      track := { armed.track with sentResetsSincePacket := 7 } }))) =
    some (some ⟨100, 160, 5000, 0, 0, false, false, 1000, 71⟩) ∧
    after (fun s => s.prog.map fun p => p.session.ackPulseStart)
      (exec .sampleTick (drawing 200 0 0 (withProg armed))) = some (some 0) ∧
    after (fun s => s.prog.map fun p => (p.session.ackPulseDuration, p.session.ackCheckDuration, p.session.ackDetected))
      (exec .sampleTick (drawing 100 0x00000770 0x00000010 (withProg (inPulse 0xFFFFF000 0xFFFFFF00)))) =
    some (some (6000, 272, true)) := by decide
/-- R93. -/
theorem test_ackResult_rows :
    after (fun s => s.port.rsp) (exec .ackResultNoAck base) = some (.ack 0) ∧
    after (fun s => s.port.rsp) (exec .ackResultAck base) = some (.ack 1) ∧
    after (fun s => s.port.rsp) (exec .ackResultPending base) = some (.ack 2) := by decide

/-! ### The dispatcher -/

/-- The programming track of V60: `MID_0`. -/
def progMid0 : Prog := { Prog.reset Params.default with track := { Track.reset Params.default false with state := .mid0 } }

/-- V60. -/
theorem test_tick :
    after (fun s => (s.out, s.main.state, s.prog.map fun p => p.track.state)) (exec .tick (withProg progMid0)) =
    some ([.setSignal .main .high, .setSignal .prog .low], .mid1, some .low0) := by decide
/-- V61, V62, V63: detector or `advance`, never both; joined tracks. -/
theorem test_tick_detector :
    after (fun s => s.prog.map fun p => p.session.ackMaxCurrent) (exec .tick (drawing 50 0 0 (withProg { armed with
      track := progMid0.track }))) = some (some 50) ∧
    after (fun s => s.prog.map fun p => (p.session.ackMaxCurrent, p.track.state))
      (exec .tick (drawing 50 0 0 (withProg armed))) = some (some (0, .mid1)) ∧
    after (fun s => (s.out, s.prog.map fun p => p.track.state)) (exec .tick { base with
      main := mainAt .mid1 16 0 0, cfg := { base.cfg with progTrackSyncMain := true } }) =
    some ([.setSignal .main .low, .setSignal .prog .low], some .mid1) := by decide
/-- V64. -/
theorem test_tickMainOnly :
    after (fun s => (s.out, s.main.state)) (exec .tickMainOnly { mainOnly with main := mainAt .low0 0 0 1 }) =
    some ([.setSignal .main .low], .start) := by decide

/-! ### The coordinator -/

/-- The operand registers of `s` with another mode, id, flag, register number and value. -/
def withArgs (m : Nat) (id : BitVec 8) (f : Bool) (r : BitVec 3) (v : BitVec 32) (s : State) : State :=
  { s with port := { s.port with args := { s.port.args with
    argMode := ⟨m⟩, argId := id, argFlag := f, argReg := r, argValue := v } } }

/-- V74. -/
theorem test_setPowerMode :
    after (fun s => s.out) (exec (.setPowerMode .main) (withArgs 1 0 false 0 0 { base with par := boosted })) =
    some [.setPowerMode 0 ⟨1⟩, .setPowerMode 2 ⟨1⟩] := by decide
/-- The example of R184, V75. -/
theorem test_setPowerModeId :
    after (fun s => s.out) (exec (.setPowerModeId .main) (withArgs 7 2 false 0 0 { base with par := boosted })) =
    some [.setPowerMode 2 ⟨7⟩] ∧
    after (fun s => s.out) (exec (.setPowerModeId .main) (withArgs 7 9 false 0 0 base)) = some [] := by decide
/-- The examples of R183 and R185. -/
theorem test_getPowerMode :
    after (fun s => s.port.rsp) (exec (.getPowerMode .main) { base with env := ⟨0, 0, 0, [(0, ⟨1⟩), (1, ⟨5⟩)]⟩ }) =
    some (.mode ⟨1⟩) ∧
    after (fun s => s.port.rsp) (exec (.getPowerModeId .main)
      (withArgs 0 1 false 0 0 { base with env := ⟨0, 0, 0, [(0, ⟨1⟩), (1, ⟨5⟩)]⟩ })) = some (.mode ⟨5⟩) := by decide
/-- V70, V71. -/
theorem test_poll :
    after (fun s => s.out) (exec (.poll .main) (withArgs 0 0 true 0 0 base)) =
    some [.checkPowerOverload 0 false, .checkPowerOverload 1 true] ∧
    after (fun s => s.out) (exec (.poll .main) (withArgs 0 0 true 0 0 { base with
      cfg := { base.cfg with progTrackSyncMain := true } })) =
    some [.checkPowerOverload 0 false, .checkPowerOverload 1 false] := by decide
/-- V72, V73. -/
theorem test_poll_no_hint :
    after (fun s => s.out) (exec (.poll .main) (withArgs 0 0 true 0 0 { base with
      cfg := { base.cfg with progTrackBoosted := true } })) =
    some [.checkPowerOverload 0 false, .checkPowerOverload 1 false] ∧
    after (fun s => s.out) (exec (.poll .main) (withArgs 0 0 false 0 0 base)) =
    some [.checkPowerOverload 0 false, .checkPowerOverload 1 false] := by decide
/-- V76. -/
theorem test_setConfig :
    after (fun s => s.cfg) (exec (.setConfig .main) (withArgs 0 0 false 3 4000 base)) =
    some ⟨false, false, 60, 4000, 8000⟩ ∧
    after (fun s => s.cfg) (exec (.setConfig .main) (withArgs 0 0 false 7 1 base)) =
    some ⟨false, false, 60, 4000, 8000⟩ := by decide
/-- R40, R186: each register row, the value cut to the width. -/
theorem test_cfg_rows :
    (List.finRange 8).map (fun n => after (fun s => s.cfg) (exec (cfgInstr n) (withArgs 0 0 false 0 0x10003 base))) =
    [some ⟨true, false, 60, 4000, 8000⟩, some ⟨false, true, 60, 4000, 8000⟩, some ⟨false, false, 3, 4000, 8000⟩,
     some ⟨false, false, 60, 0x10003, 8000⟩, some ⟨false, false, 60, 4000, 0x10003⟩, some ⟨false, false, 60, 4000, 8000⟩,
     some ⟨false, false, 60, 4000, 8000⟩, some ⟨false, false, 60, 4000, 8000⟩] := by decide

/-! ### Steps -/

/-- With nothing placed the first step from reset is the first tick of V10. -/
theorem test_step_first_tick : after mainPosition (step State.reset) = some (.mid1, 16, 0, 0) := by decide
/-- A command word placed for the next step is run, and is done with. -/
theorem test_step_command :
    after (fun s => (s.prog.map fun p => p.track.packetPending, s.ctl.length)) (step (base.withFetchWord 8 0x18)) =
    some (some true, 0) := by decide
/-- V38: while the slot is occupied the operation is held, `BUSY` is 1 and the operation stays the next to issue. -/
theorem test_step_held :
    after (fun s => (s.busy, s.ctl.length))
      (step ((withMain { base.main with packetPending := true }).withFetchWord 8 0x10)) = some (true, 1) := by decide
/-- R142, R212: the tick in which the boundary takes the pending packet ends the hold, so `BUSY` falls in it. -/
theorem test_tick_ends_hold :
    after (fun s => (s.busy, s.main.packetPending)) (exec .tick
      ((withMain { mainAt .start 0 2 8 with packetPending := true }).holdFor .main)) = some (false, false) ∧
    after (fun s => s.busy) (exec .tick
      ((withMain { mainAt .start 0 2 8 with packetPending := true, transmitRepeats := 1 }).holdFor .main)) =
    some true := by decide
/-- R242. -/
theorem test_step_reset :
    after mainPosition (step { withMain (mainAt .low0 0 2 8) with turns := [.reset] }) = some (.start, 17, 0, 0) := by
  decide
/-- R85: a row turn with a reserved code is refused by name. -/
theorem test_step_refused : step (base.withFetchWord 8 6) = .refused (.undecodable (.reservedWaveCode 6)) := by rfl

/-! ### Witnesses: states and operands that meet the hypotheses of each obligation -/

/-- The reset state meets the invariant. -/
theorem base_inv : base.Inv := by
  refine ⟨Track.reset_inv Params.default true, ?_, ?_, by decide, rfl⟩
  · intro p hp; cases hp; exact Track.reset_inv Params.default false
  · intro p hp; cases hp; exact ⟨by decide, by decide, by decide, by decide⟩

theorem witness_ResetGivesTheStatedValues :
    ∃ q, (State.resetWith true Params.default).prog = some q := ⟨_, rfl⟩

theorem witness_ResetTurnOverwritesTheBlock : ∃ (s : State) (rest : List Turn), s.turns = .reset :: rest :=
  ⟨{ base with turns := [.reset] }, [], rfl⟩

theorem witness_StepKeepsTheInvariant : ∃ s t : State, s.Inv ∧ step s = .next t := ⟨base, _, base_inv, rfl⟩

theorem witness_InvariantStatesNeverStop : ∃ s : State, s.Inv := ⟨base, base_inv⟩

theorem witness_ConstantsAreNeverWritten : ∃ (i : Instr) (s t : State) (T U : Track),
    exec i s = .next t ∧ s.track? .prog = some T ∧ t.track? .prog = some U := ⟨.tick, base, _, _, _, rfl, rfl, rfl⟩

theorem witness_ControlNeverMovesTheEncoder : ∃ (i : Instr) (s t : State) (T U : Track), i.isPortCommand = true ∧
    exec i s = .next t ∧ s.track? .main = some T ∧ t.track? .main = some U :=
  ⟨.schedulePacket .main, base, _, _, _, rfl, rfl, rfl, rfl⟩

theorem witness_TickNeverWritesControlRegisters :
    (∃ (t : State) (U : Track) (q : Prog), exec .tick base = .next t ∧ t.track? .main = some U ∧ t.prog = some q) ∧
    (∃ (t : State) (U : Track) (q : Prog), exec .tickMainOnly base = .next t ∧ t.track? .main = some U ∧
      t.prog = some q) := ⟨⟨_, _, _, rfl, rfl, rfl⟩, ⟨_, _, _, rfl, rfl, rfl⟩⟩

theorem witness_NonStoringRowsLeaveEveryBufferByte : ∃ (i : Instr) (s t : State), mayStore i = false ∧
    exec i s = .next t := ⟨.waveMid0 .main, base, _, rfl, rfl⟩

theorem witness_TickStoresOnlyAtThePacketEnd : ∃ (t : State) (T : Track),
    exec .tick base = .next t ∧ base.track? .main = some T ∧ ¬ (T.state = .start ∧ T.endsPacket) ∧ T.state ≠ .pending :=
  ⟨_, _, rfl, rfl, fun h => absurd h.2.1 (by decide), by decide⟩

theorem witness_ClosedSessionIsLeftAlone : ∃ (t : State) (p : Prog), base.prog = some p ∧
    p.session.ackPending = false ∧ exec .tick base = .next t := ⟨_, _, rfl, rfl, rfl⟩

theorem witness_DecodeEncodeAgree :
    (Instr.wf (.opReservedLowbits 0xAF) = true ∧ Instr.selectedBy true (.opReservedLowbits 0xAF) = true ∧
      encode (.opReservedLowbits 0xAF) = some ⟨.port, 0xAF, .main⟩) ∧
    (Instr.wf .tickMainOnly = true ∧ Instr.selectedBy false .tickMainOnly = true ∧
      encode .tickMainOnly = some ⟨.strobe, 1, .main⟩) ∧
    (Instr.wf .sampleTick = true ∧ encode .sampleTick = none) := by decide

theorem witness_ReservedWaveCodesAreRefused : ∃ w : BitVec 24, w = 6 ∨ w = 7 := ⟨7, .inr rfl⟩

theorem witness_StepRunsTheDecodedInstruction :
    (base.turns = []) ∧
    (∃ (s : State) (d : Draws) (rest : List Turn), s.turns = .strobe d :: rest) ∧
    (∃ (s : State) (d : Draws) (rest : List Turn) (a : PortArgs) (as : List PortArgs),
      s.turns = .control d :: rest ∧ s.ctl = a :: as) ∧
    (∃ (s : State) (d : Draws) (rest : List Turn), s.turns = .control d :: rest ∧ s.ctl = []) ∧
    (∃ (s : State) (c : Code) (d : Draws) (rest : List Turn) (i : Instr), s.turns = .row c d :: rest ∧
      decode s.hasProg c = .ok i) ∧
    (∃ (s : State) (c : Code) (d : Draws) (rest : List Turn) (e : DecodeError), s.turns = .row c d :: rest ∧
      decode s.hasProg c = .error e) :=
  ⟨rfl, ⟨{ base with turns := [.strobe Draws.none] }, _, _, rfl⟩, ⟨base.withFetchWord 8 0x10, _, _, _, _, rfl, rfl⟩,
    ⟨{ base with turns := [.control Draws.none] }, _, _, rfl, rfl⟩, ⟨base.withFetchWord 8 5, _, _, _, _, rfl, rfl⟩,
    ⟨base.withFetchWord 8 6, _, _, _, _, rfl, rfl⟩⟩

/-- A track of each kind exists: the hypothesis of the statements about one track. -/
theorem witness_SettledWaveRowsFollowTheTables :
    (∃ T, base.track? .main = some T) ∧ (∃ T, base.track? .prog = some T) := ⟨⟨_, rfl⟩, ⟨_, rfl⟩⟩

theorem witness_PendingWaveRowsResolveTheNextBit : ∃ (s : State) (T : Track), s.track? .main = some T ∧
    T.bytesSent.toNat = s.par.maxPacketSize := ⟨withMain (mainAt .start 0 5 0), _, rfl, rfl⟩

theorem witness_LookupAndTransitionOfATrack (w : Wave) : ∃ (s : State) (T : Track), s.track? .main = some T ∧
    T.state = w := ⟨withMain (mainAt w 0 0 0), _, rfl, rfl⟩

theorem witness_LevelRowsAssertTheirLevel : base.prog.isSome := rfl

theorem witness_MaskRowsProduceTheirBit : ∃ (s : State) (T : Track), s.track? .main = some T ∧
    T.bytesSent.toNat = s.par.maxPacketSize := ⟨withMain (mainAt .pending 0 5 8), _, rfl, rfl⟩

theorem witness_AdvanceFollowsItsAlgorithm :
    (∃ (s : State) (T : Track), s.track? .main = some T ∧ T.remainingPreambles ≠ 0) ∧
    (∃ (s : State) (T : Track) (k : Fin 9), s.track? .main = some T ∧ T.remainingPreambles = 0 ∧
      T.bytesSent.toNat = s.par.maxPacketSize ∧ k = 8 ∧ k.val = T.bitsSent.val + 1) ∧
    (∃ (s : State) (T : Track), s.track? .main = some T ∧ T.remainingPreambles = 0 ∧
      T.bytesSent.toNat ≤ s.par.maxPacketSize ∧ T.bitsSent = 8 ∧ T.bytesSent.toNat + 2 = T.transmitLength.toNat) ∧
    (∃ (s : State) (T : Track), s.track? .main = some T ∧ T.remainingPreambles = 0 ∧
      T.bytesSent.toNat ≤ s.par.maxPacketSize ∧ T.bitsSent = 8 ∧ T.transmitLength.toNat = T.bytesSent.toNat + 1) :=
  ⟨⟨withMain (mainAt .pending 1 0 0), _, rfl, by decide⟩, ⟨withMain (mainAt .pending 0 5 7), _, 8, rfl, rfl, rfl, rfl, rfl⟩,
    ⟨withMain (mainAt .pending 0 1 8), _, rfl, rfl, by decide, rfl, rfl⟩,
    ⟨withMain (mainAt .pending 0 2 8), _, rfl, rfl, by decide, rfl, rfl⟩⟩

theorem witness_CursorOutsideTheBufferFaults : ∃ (s : State) (T : Track), s.track? .main = some T ∧
    T.bytesSent.toNat = s.par.maxPacketSize + 1 ∧ T.remainingPreambles = 0 :=
  ⟨withMain (mainAt .pending 0 6 0), _, rfl, rfl, rfl⟩

theorem witness_PacketBoundaryChoosesByPriority :
    (∃ (s : State) (T : Track), s.track? .main = some T ∧ T.transmitBuffer.wf = true ∧ T.transmitRepeats ≠ 0) ∧
    (∃ (s : State) (T : Track), s.track? .main = some T ∧ T.transmitBuffer.wf = true ∧ T.transmitRepeats = 0 ∧
      T.packetPending = true) ∧
    (∃ (s : State) (T : Track), s.track? .main = some T ∧ T.transmitBuffer.wf = true ∧ T.transmitRepeats = 0 ∧
      T.packetPending = false ∧ T.sentResetsSincePacket = 249) ∧
    (∃ (s : State) (T : Track), s.track? .prog = some T ∧ T.transmitBuffer.wf = true ∧ T.transmitRepeats = 0 ∧
      T.packetPending = false ∧ T.sentResetsSincePacket = 250) :=
  ⟨⟨withMain { base.main with transmitRepeats := 1 }, _, rfl, rfl, by decide⟩,
    ⟨withMain { base.main with packetPending := true }, _, rfl, rfl, rfl, rfl⟩,
    ⟨withMain { base.main with sentResetsSincePacket := 249 }, _, rfl, rfl, rfl, rfl, rfl⟩,
    ⟨withProg ⟨{ Track.reset Params.default false with sentResetsSincePacket := 250 }, AckSession.reset⟩, _, rfl, rfl, rfl, rfl, rfl⟩⟩

theorem witness_FillerRowsLoadTheirPacket :
    (∃ T, base.track? .main = some T ∧ T.transmitBuffer.wf = true) ∧
    (∃ T, base.track? .prog = some T ∧ T.transmitBuffer.wf = true) := ⟨⟨_, rfl, rfl⟩, ⟨_, rfl, rfl⟩⟩

/-- Lengths 1 with no preamble left and `maxPacketSize + 1` with a whole preamble to send, cursors at zero. -/
theorem witness_AdvanceSendsThePacketOnTheWire :
    ∃ T U : Track, (T.transmitLength.toNat = 1 ∧ T.bytesSent = 0 ∧ T.bitsSent = 0 ∧ T.remainingPreambles = 0) ∧
      (U.transmitLength.toNat = Params.default.maxPacketSize + 1 ∧ U.bytesSent = 0 ∧ U.bitsSent = 0 ∧
        U.remainingPreambles = 17) :=
  ⟨{ base.main with transmitLength := 1, remainingPreambles := 0 }, { base.main with transmitLength := 6 },
    ⟨rfl, rfl, rfl, rfl⟩, ⟨rfl, rfl, rfl, rfl⟩⟩

theorem witness_TransmissionLevelsAndTickCount : ∃ T : Track, 1 ≤ T.transmitLength.toNat ∧
    T.transmitLength.toNat ≤ Params.default.maxPacketSize + 1 ∧ T.state = .start ∧ T.bytesSent = 0 ∧ T.bitsSent = 0 :=
  ⟨base.main, by decide, by decide, rfl, rfl, rfl⟩

theorem witness_FillerIsSentForEver : ∃ (t : State) (T U : Track), base.Inv ∧ exec .tick base = .next t ∧
    base.track? .main = some T ∧ t.track? .main = some U ∧ T.OnlyFiller base.par :=
  ⟨_, _, _, base_inv, rfl, rfl, rfl, ⟨by decide, by decide, by decide, by decide⟩⟩

/-- A pending packet that fills the buffer, with the most repeats. -/
theorem witness_PacketIsSentRepeatsPlusOneTimes : ∃ T : Track, T.transmitRepeats = 0 ∧ T.packetPending = true ∧
    T.transmitBuffer.wf = true ∧ T.pendingLength.toNat = Params.default.maxPacketSize + 1 ∧ T.pendingRepeats = 255 :=
  ⟨{ base.main with packetPending := true, pendingLength := 6, pendingRepeats := 255 }, rfl, rfl, rfl, rfl, rfl⟩

theorem witness_SlotIsFreedAfterTheRepeats : ∃ T : Track, T.packetPending = true ∧ T.transmitRepeats = 255 :=
  ⟨{ base.main with packetPending := true, transmitRepeats := 255 }, rfl, rfl⟩

theorem witness_ScheduleStoresPacketAndChecksum :
    (∃ (s : State) (T : Track), s.track? .main = some T ∧ s.port.args.argCount.toNat = 0 ∧ T.packetPending = false ∧
      T.pendingBuffer.wf = true) ∧
    (∃ (s : State) (T : Track), s.track? .prog = some T ∧ s.port.args.argCount.toNat = s.par.maxPacketSize ∧
      T.packetPending = false ∧ T.pendingBuffer.wf = true) :=
  ⟨⟨base, _, rfl, rfl, rfl, rfl⟩, ⟨withPayload [1, 2, 3, 4, 5] 5 0 base, _, rfl, rfl, rfl, rfl⟩⟩

theorem witness_OversizedPayloadIsRejected : ∃ s : State, s.port.args.argCount.toNat = s.par.maxPacketSize + 1 :=
  ⟨withPayload [] 6 0 base, rfl⟩

theorem witness_OccupiedSlotHoldsTheCaller :
    (∃ (s : State) (T : Track), s.track? .prog = some T ∧ T.packetPending = true ∧
      s.port.args.argCount.toNat = s.par.maxPacketSize) ∧
    (∃ (s : State) (d d' : Draws) (rest : List Turn) (a : PortArgs) (as : List PortArgs) (T : Track),
      s.track? .main = some T ∧ T.packetPending = true ∧ s.turns = .control d :: .strobe d' :: rest ∧ s.ctl = a :: as ∧
      decodePort a.cmd = .schedulePacket .main ∧ a.argCount.toNat ≤ s.par.maxPacketSize) :=
  ⟨⟨withPayload [] 5 0 (withProg { armed with track := { armed.track with packetPending := true } }), _, rfl, rfl, rfl⟩,
    ⟨{ withMain { base.main with packetPending := true } with
        turns := [.control Draws.none, .strobe Draws.none], ctl := [{ Port.reset.args with cmd := 0x10 }] },
      _, _, _, _, _, _, rfl, rfl, rfl, rfl, by decide, by decide⟩⟩

theorem witness_PacketXorIsZero :
    (∃ (s : State) (T : Track), s.track? .prog = some T ∧ s.port.args.argCount.toNat = 0 ∧ T.packetPending = false ∧
      T.pendingBuffer.wf = true) ∧
    (∃ (s : State) (T : Track), s.track? .main = some T ∧ s.port.args.argCount.toNat = s.par.maxPacketSize ∧
      T.packetPending = false ∧ T.pendingBuffer.wf = true) :=
  ⟨⟨base, _, rfl, rfl, rfl, rfl⟩, ⟨withPayload [1, 2, 3, 4, 5] 5 0 base, _, rfl, rfl, rfl, rfl⟩⟩

theorem witness_BaselineSetsTheThreshold : ∃ p, base.prog = some p := ⟨_, rfl⟩
theorem witness_ArmingOpensTheSession : ∃ p, (withProg armed).prog = some p := ⟨_, rfl⟩

theorem witness_GetAckReadsTheFlags :
    (∃ (s : State) (p : Prog), s.prog = some p ∧ p.session.ackPending = true) ∧
    (∃ (s : State) (p : Prog), s.prog = some p ∧ p.session.ackPending = false ∧ p.session.ackDetected = true) ∧
    (∃ (s : State) (p : Prog), s.prog = some p ∧ p.session.ackPending = false ∧ p.session.ackDetected = false) :=
  ⟨⟨withProg armed, _, rfl, rfl⟩,
    ⟨withProg { armed with session := { AckSession.reset with ackDetected := true } }, _, rfl, rfl, rfl⟩,
    ⟨base, _, rfl, rfl, rfl⟩⟩

/-- The hypotheses of the six rows of R167, at the boundary values of the timeout, the threshold and the window. -/
theorem witness_DetectorFollowsTheTable :
    (¬ (7 : BitVec 8).toNat ≤ 6) ∧ ((6 : BitVec 8).toNat ≤ 6) ∧
    (∃ (s : State) (p : Prog), s.prog = some p ∧ p.session.ackThreshold < s.env.current % 2 ^ s.par.curW ∧
      p.session.ackPulseStart = 0) ∧
    (∃ (s : State) (p : Prog), s.prog = some p ∧ p.session.ackThreshold < s.env.current % 2 ^ s.par.curW ∧
      p.session.ackPulseStart ≠ 0) ∧
    (∃ (s : State) (p : Prog), s.prog = some p ∧ s.env.current % 2 ^ s.par.curW ≤ p.session.ackThreshold ∧
      p.session.ackPulseStart = 0) ∧
    (∃ (s : State) (p : Prog), s.prog = some p ∧ s.env.current % 2 ^ s.par.curW ≤ p.session.ackThreshold ∧
      p.session.ackPulseStart ≠ 0 ∧ (s.env.nowUs - p.session.ackPulseStart).toNat = s.cfg.minAckPulseDuration.toNat) ∧
    (∃ (s : State) (p : Prog), s.prog = some p ∧ s.env.current % 2 ^ s.par.curW ≤ p.session.ackThreshold ∧
      p.session.ackPulseStart ≠ 0 ∧
      (s.env.nowUs - p.session.ackPulseStart).toNat = s.cfg.maxAckPulseDuration.toNat + 1) :=
  ⟨by decide, by decide, ⟨drawing 161 5000 0 (withProg armed), _, rfl, by decide, rfl⟩,
    ⟨drawing 161 6000 0 (withProg (inPulse 5000 0)), _, rfl, by decide, by decide⟩,
    ⟨drawing 160 5000 0 (withProg armed), _, rfl, by decide, rfl⟩,
    ⟨drawing 160 9000 0 (withProg (inPulse 5000 0)), _, rfl, by decide, by decide, by decide⟩,
    ⟨drawing 160 13001 0 (withProg (inPulse 5000 0)), _, rfl, by decide, by decide, by decide⟩⟩

/-- The programming side of `armed`, seven fillers later, in the wave state `w`. -/
def quiet (w : Wave) : Prog :=
  { track := { Track.reset Params.default false with sentResetsSincePacket := 7, state := w }, session := armed.session }

theorem armed_session_inv : armed.session.Inv 16 := ⟨by decide, by decide, by decide, by decide⟩

theorem quiet_inv (w : Wave) (hw : w ≠ .pending) : (withProg (quiet w)).Inv := by
  refine ⟨base_inv.main, ?_, ?_, base_inv.ackLimit, rfl⟩
  · intro p hp; cases hp
    have h := Track.reset_inv Params.default false
    exact { h with notPending := hw, resets := (by decide : (7 : BitVec 8).toNat ≤ resetsCap) }
  · intro p hp; cases hp; exact armed_session_inv

theorem witness_TimeoutEndsTheSessionAtADetectorTick :
    (∃ (s : State) (p : Prog), s.Inv ∧ s.prog = some p ∧ p.session.ackPending = true ∧
      6 < p.track.sentResetsSincePacket.toNat ∧ p.track.state = .start) ∧
    (∃ (s : State) (p : Prog), s.Inv ∧ s.prog = some p ∧ p.session.ackPending = true ∧
      6 < p.track.sentResetsSincePacket.toNat ∧ p.track.state ≠ .start) :=
  ⟨⟨withProg (quiet .start), _, quiet_inv _ (by decide), rfl, rfl, by decide, rfl⟩,
    ⟨withProg (quiet .low0), _, quiet_inv _ (by decide), rfl, rfl, by decide, by decide⟩⟩

/-- Cursors at the last cell, and each way steps 5 and 6 of the tick can go. -/
theorem witness_TickAdvancesBothTracks :
    (∃ (s : State) (p : Prog), s.prog = some p ∧ s.main.bytesSent.toNat = s.par.maxPacketSize ∧
      p.track.bytesSent.toNat = s.par.maxPacketSize ∧ nextWave s.main.state = .pending ∧
      nextWave p.track.state ≠ .pending ∧ p.session.ackPending = true) ∧
    (∃ (s : State) (p : Prog), s.prog = some p ∧ s.main.bytesSent.toNat ≤ s.par.maxPacketSize ∧
      p.track.bytesSent.toNat ≤ s.par.maxPacketSize ∧ nextWave s.main.state ≠ .pending ∧
      nextWave p.track.state ≠ .pending ∧ p.session.ackPending = false) ∧
    (∃ (s : State) (p : Prog), s.prog = some p ∧ s.main.bytesSent.toNat ≤ s.par.maxPacketSize ∧
      p.track.bytesSent.toNat ≤ s.par.maxPacketSize ∧ nextWave p.track.state = .pending) :=
  ⟨⟨{ base with
      main := mainAt .start 0 5 8, prog := some { armed with track := { progMid0.track with bytesSent := 5 } } },
      _, rfl, rfl, rfl, rfl, by decide, rfl⟩,
    ⟨{ base with main := mainAt .mid1 0 0 1, prog := some progMid0 }, _, rfl, by decide, by decide, by decide, by decide, rfl⟩,
    ⟨base, _, rfl, by decide, by decide, rfl⟩⟩

theorem witness_MainOnlyTickLeavesTheRest :
    (∃ s : State, s.main.bytesSent.toNat = s.par.maxPacketSize ∧ nextWave s.main.state = .pending ∧ s.prog = none) ∧
    (∃ s : State, s.main.bytesSent.toNat ≤ s.par.maxPacketSize ∧ nextWave s.main.state ≠ .pending) :=
  ⟨⟨{ mainOnly with main := mainAt .start 0 5 8 }, rfl, rfl, rfl⟩,
    ⟨{ mainOnly with main := mainAt .low0 0 0 1 }, by decide, by decide⟩⟩

theorem witness_TracksDoNotInteractInATick :
    (∃ s s' t t' : State, s.par = s'.par ∧ exec .tick s = .next t ∧ exec .tick s' = .next t' ∧ s.main = s'.main ∧
      s.prog ≠ s'.prog) ∧
    (∃ s s' t t' : State, s.par = s'.par ∧ exec .tick s = .next t ∧ exec .tick s' = .next t' ∧ s.prog = s'.prog ∧
      s.cfg = s'.cfg ∧ s.env = s'.env ∧ s.main ≠ s'.main) :=
  ⟨⟨base, withProg progMid0, _, _, rfl, rfl, rfl, rfl, by decide⟩,
    ⟨base, withMain (mainAt .mid1 3 0 0), _, _, rfl, rfl, rfl, rfl, rfl, rfl, by decide⟩⟩

theorem witness_JoiningChangesOnlyTheProgrammingLevel : ∃ (s t t' : State) (p : Prog), s.prog = some p ∧
    exec .tick { s with cfg := { s.cfg with progTrackSyncMain := true } } = .next t ∧
    exec .tick { s with cfg := { s.cfg with progTrackSyncMain := false } } = .next t' :=
  ⟨withProg progMid0, _, _, _, rfl, rfl, rfl⟩

/-- An id of each chain, the last one of the two chains among them, and an id that no driver has. -/
theorem witness_SetPowerModeReachesItsDrivers :
    base.prog.isSome ∧
    (withArgs 0 0 false 0 0 base).port.args.argId ∈ base.par.chainMain.ids ++ base.par.chainProg.ids ∧
    (withArgs 0 1 false 0 0 base).port.args.argId ∈ base.par.chainMain.ids ++ base.par.chainProg.ids ∧
    (withArgs 0 9 false 0 0 base).port.args.argId ∉ base.par.chainMain.ids ++ base.par.chainProg.ids := by decide

theorem witness_GetPowerModeAsksItsDriver : ∃ (s : State) (m : PowerMode), s.prog.isSome = true ∧
    s.env.modes.lookup s.par.chainMain.primary = some m ∧ s.env.modes.lookup s.par.chainProg.primary = some m ∧
    s.port.args.argId ∈ s.par.chainMain.ids ++ s.par.chainProg.ids ∧
    s.env.modes.lookup s.port.args.argId = some m :=
  ⟨withArgs 0 1 false 0 0 { base with env := ⟨0, 0, 0, [(0, ⟨1⟩), (1, ⟨1⟩)]⟩ }, ⟨1⟩, rfl, by decide, by decide, by decide,
    by decide⟩

/-- Without a programming track the id 1 of its primary driver is no driver's. -/
theorem witness_PowerModeByIdWithoutAProgrammingTrack :
    (∃ (s : State) (m : PowerMode), s.prog = none ∧ s.port.args.argId ∈ s.par.chainMain.ids ∧
      s.env.modes.lookup s.port.args.argId = some m) ∧
    (∃ s : State, s.prog = none ∧ s.port.args.argId ∉ s.par.chainMain.ids) :=
  ⟨⟨withArgs 0 0 false 0 0 { mainOnly with env := ⟨0, 0, 0, [(0, ⟨1⟩)]⟩ }, ⟨1⟩, rfl, by decide, by decide⟩,
    ⟨withArgs 0 1 false 0 0 mainOnly, rfl, by decide⟩⟩

theorem witness_PollGivesEachDriverItsHint : mainOnly.prog = none ∧ base.prog.isSome := ⟨rfl, rfl⟩

theorem witness_SetConfigWritesItsRegister (n : Fin 8) : ∃ s : State, s.port.args.argReg.toNat = n.val :=
  ⟨withArgs 0 0 false (BitVec.ofNat 3 n.val) 0 base, Nat.mod_eq_of_lt n.isLt⟩

theorem witness_CommandsWithoutAProgrammingTrack : ∃ s : State, s.prog = none := ⟨mainOnly, rfl⟩
theorem witness_RowsWithoutAProgrammingTrack : ∃ s : State, s.prog = none := ⟨mainOnly, rfl⟩

/-- A slot freed by the tick and one that waits for a repeat, on the main track under both ticks and on the programming
track. -/
theorem witness_BusyFallsInTheTickThatFreesTheSlot :
    (∃ (s t : State) (T : Track), s.port.waiting = some .main ∧ s.track? .main = some T ∧ T.packetPending = true ∧
      T.state ≠ .pending ∧ exec .tick s = .next t ∧ T.state = .start ∧ T.endsPacket ∧ T.transmitRepeats = 0) ∧
    (∃ (s t : State) (T : Track), s.port.waiting = some .main ∧ s.track? .main = some T ∧ T.packetPending = true ∧
      T.state ≠ .pending ∧ exec .tickMainOnly s = .next t ∧ T.endsPacket ∧ T.transmitRepeats = 1) ∧
    (∃ (s t : State) (T : Track), s.port.waiting = some .prog ∧ s.track? .prog = some T ∧ T.packetPending = true ∧
      T.state ≠ .pending ∧ exec .tick s = .next t) :=
  ⟨⟨(withMain { mainAt .start 0 2 8 with packetPending := true }).holdFor .main, _, _, rfl, rfl, rfl, by decide, rfl, rfl,
      ⟨rfl, rfl, by decide⟩, rfl⟩,
    ⟨(withMain { mainAt .start 0 2 8 with packetPending := true, transmitRepeats := 1 }).holdFor .main, _, _, rfl, rfl, rfl,
      by decide, rfl, ⟨rfl, rfl, by decide⟩, rfl⟩,
    ⟨(withProg { armed with track := { armed.track with packetPending := true } }).holdFor .prog, _, _, rfl, rfl, rfl,
      by decide, rfl⟩⟩

end Sys2Proof.Tests
end

section
/-! PROOFS of the family 10_state.md: what reset gives, what every step keeps, and what no instruction writes. Two
inversions carry them: what one step can be (`step_cases`) and what one command of the port can do (`portCommand_effect`);
beside them stands the frame of every instruction (`exec_sameConstants`). -/

namespace Sys2Proof.Machine

/-! ### The turns of a step -/

/-- The strobe's code is the tick row of the configuration (R197, R211). -/
theorem fetchCode_strobeCode (hasProg : Bool) (t : State) (isCommand : Bool) :
    fetchCode hasProg strobeCode t isCommand = .run (decodeStrobe hasProg) t isCommand := rfl

/-- The port's code is the command in its word: the port's decoder refuses nothing (R101, R102). -/
theorem decode_portCode (hasProg : Bool) (cmd : BitVec 8) : decode hasProg (portCode cmd) = .ok (decodePort cmd) := by
  have fits : (0#16 ++ cmd).toNat < 2 ^ 8 := by
    rw [BitVec.toNat_append]
    simpa using cmd.isLt
  have e : decode hasProg (portCode cmd) = .ok (decodePort ((0#16 ++ cmd).extractLsb' 0 8)) := if_pos fits
  rw [e, BitVec.extractLsb'_append_eq_right]

/-- A strobe runs the tick row of the configuration; so does the timer going on alone, below. -/
theorem step_of_strobe (s : State) (d : Draws) (rest : List Turn) (h : s.turns = .strobe d :: rest) :
    step s = exec (decodeStrobe s.hasProg) (s.beginTurn d rest) := by
  unfold step fetch
  simp only [h, fetchCode_strobeCode]
  cases exec (decodeStrobe s.hasProg) (s.beginTurn d rest) <;> rfl

theorem step_of_noTurns (s : State) (h : s.turns = []) :
    step s = exec (decodeStrobe s.hasProg) s.beginFreeTick := by
  unfold step fetch
  simp only [h, fetchCode_strobeCode]
  cases exec (decodeStrobe s.hasProg) s.beginFreeTick <;> rfl

/-- A turn of the control context issues its oldest operation, and retires it unless it is held. -/
theorem step_of_control (s : State) (d : Draws) (rest : List Turn) (a : PortArgs) (as : List PortArgs)
    (h : s.turns = .control d :: rest) (hc : s.ctl = a :: as) :
    step s = retireResult true (exec (decodePort a.cmd) ((s.beginTurn d rest).latchCommand a)) := by
  unfold step fetch
  simp only [h, hc, fetchCode, decode_portCode]

theorem step_of_control_nil (s : State) (d : Draws) (rest : List Turn)
    (h : s.turns = .control d :: rest) (hc : s.ctl = []) : step s = .next (s.beginTurn d rest) := by
  unfold step fetch
  simp only [h, hc]

theorem step_of_reset (s : State) (rest : List Turn) (h : s.turns = .reset :: rest) :
    step s = .next { s with turns := rest }.resetBlock := by
  unfold step fetch
  simp only [h]

/-- Retiring neither stops a step nor lets a stopped one go on. -/
theorem retireResult_next {isCommand : Bool} {r : Result} {t : State} (h : retireResult isCommand r = .next t) :
    ∃ u, r = .next u ∧ t = u.retire isCommand := by
  cases r with
  | next u =>
    injection h with h
    exact ⟨u, rfl, h.symm⟩
  | fault e => cases h
  | refused e => cases h

/-- Everything a step can be when only turns of the agents are to come: a tick of the timer in the state its turn begins,
an operation of the control context that is then retired, a turn with nothing to issue, or a reset event. -/
theorem step_cases {s t : State} (ha : s.turns.all Turn.isAgent = true) (h : step s = .next t) :
    exec (decodeStrobe s.hasProg) s.beginFreeTick = .next t ∨
    ∃ rest, rest.all Turn.isAgent = true ∧
      ((∃ d, exec (decodeStrobe s.hasProg) (s.beginTurn d rest) = .next t) ∨
       (∃ d a u, exec (decodePort a.cmd) ((s.beginTurn d rest).latchCommand a) = .next u ∧ t = u.retire true) ∨
       (∃ d, t = s.beginTurn d rest) ∨
       t = { s with turns := rest }.resetBlock) := by
  match ht : s.turns with
  | [] =>
    rw [step_of_noTurns s ht] at h
    exact .inl h
  | .strobe d :: rest =>
    rw [ht] at ha
    rw [step_of_strobe s d rest ht] at h
    exact .inr ⟨rest, ha, .inl ⟨d, h⟩⟩
  | .control d :: rest =>
    rw [ht] at ha
    refine .inr ⟨rest, ha, .inr ?_⟩
    match hc : s.ctl with
    | [] =>
      rw [step_of_control_nil s d rest ht hc] at h
      injection h with h
      exact .inr (.inl ⟨d, h.symm⟩)
    | a :: as =>
      rw [step_of_control s d rest a as ht hc] at h
      obtain ⟨u, hu, rfl⟩ := retireResult_next h
      exact .inl ⟨d, a, u, hu, rfl⟩
  | .reset :: rest =>
    rw [ht] at ha
    rw [step_of_reset s rest ht] at h
    injection h with h
    exact .inr ⟨rest, ha, .inr (.inr (.inr h.symm))⟩
  | .row c d :: rest =>
    rw [ht] at ha
    cases ha

/-- The tick is the two-track form where there is a programming track and the main-only form elsewhere (R197). -/
theorem execTick_of_some {s : State} {p : Prog} (hp : s.prog = some p) : exec .tick s = s.tickBoth p := by
  simp only [exec, execTick, hp]

theorem execTick_of_none {s : State} (hp : s.prog = none) : exec .tick s = s.tickMain := by
  simp only [exec, execTick, hp]

/-! ### What a command of the port can do -/

/-- Everything an operation of the control context can do to the state: answer in the port, emit, or nothing; write a
configuration register; set the baseline or arm the session of a programming track that exists; fill the pending slot of a
track that exists with a payload that fits (R101, R220). -/
inductive CommandEffect (s : State) : State → Prop
  | answered (port : Port) (out : List Event) (n : Nat) :
    CommandEffect s { s with port := port, out := out, freeCount := n }
  | configured (reg : Nat) : CommandEffect s (s.writeConfig reg)
  | baselined (p : Prog) (hp : s.prog = some p) : CommandEffect s (s.setSession
      { p.session with ackBaseline := s.drawCurrent, ackThreshold := s.drawCurrent + s.thresholdDelta })
  | armed (p : Prog) (hp : s.prog = some p) : CommandEffect s (s.setSession (p.session.arm s.env.nowMs))
  | stored (k : TrackSel) (T : Track) (hT : s.track? k = some T)
      (hn : s.port.args.argCount.toNat ≤ s.par.maxPacketSize) :
    CommandEffect s (s.setTrack k (T.storePacket s.port.args.payload s.port.args.argRepeats))

/-- A command that does nothing. -/
theorem CommandEffect.none (s : State) : CommandEffect s s := .answered s.port s.out s.freeCount

/-- What holds of the answer of an instruction holds of the state it leaves. -/
theorem of_next {P : State → Prop} {u t : State} (hu : P u) (h : (.next u : Result) = .next t) : P t := by
  injection h with h
  exact h ▸ hu

theorem schedulePacket_effect (trk : TrackSel) {s t : State} (h : execSchedulePacket trk s = .next t) :
    CommandEffect s t := by
  rcases execSchedulePacket_cases trk s with e | ⟨T, -, -, -, e⟩ | ⟨T, hT, hn, -, e⟩ <;> rw [e] at h
  · exact of_next (.none s) h
  · exact of_next (.answered _ _ _) h
  · exact of_next (.stored trk T hT hn) h

theorem setAckBaseline_effect (trk : TrackSel) {s t : State} (h : execSetAckBaseline trk s = .next t) :
    CommandEffect s t := by
  unfold execSetAckBaseline at h
  split at h
  · exact of_next (.none s) h
  · exact of_next (.baselined _ ‹_›) h

theorem setAckPending_effect (trk : TrackSel) {s t : State} (h : execSetAckPending trk s = .next t) :
    CommandEffect s t := by
  unfold execSetAckPending at h
  split at h
  · exact of_next (.none s) h
  · exact of_next (.armed _ ‹_›) h

theorem getAck_effect (trk : TrackSel) {s t : State} (h : execGetAck trk s = .next t) : CommandEffect s t := by
  unfold execGetAck at h
  split at h <;> exact of_next (.answered _ _ _) h

theorem setPowerMode_effect (trk : TrackSel) {s t : State} (h : execSetPowerMode trk s = .next t) :
    CommandEffect s t := by
  unfold execSetPowerMode at h
  split at h
  · exact of_next (.none s) h
  · exact of_next (.answered _ _ _) h

theorem getPowerMode_effect (trk : TrackSel) {s t : State} (h : execGetPowerMode trk s = .next t) :
    CommandEffect s t := by
  unfold execGetPowerMode at h
  split at h <;> exact of_next (.answered _ _ _) h

theorem setPowerModeId_effect (trk : TrackSel) {s t : State} (h : execSetPowerModeId trk s = .next t) :
    CommandEffect s t := by
  unfold execSetPowerModeId at h
  split at h
  · exact of_next (.answered _ _ _) h
  · exact of_next (.none s) h

theorem getPowerModeId_effect (trk : TrackSel) {s t : State} (h : execGetPowerModeId trk s = .next t) :
    CommandEffect s t := by
  unfold execGetPowerModeId at h
  split at h <;> exact of_next (.answered _ _ _) h

/-- Every command of the port has one of the effects above. -/
theorem portCommand_effect {i : Instr} {s t : State} (hi : i.isPortCommand = true) (h : exec i s = .next t) :
    CommandEffect s t := by
  cases i with
  | schedulePacket trk => exact schedulePacket_effect trk h
  | setAckBaseline trk => exact setAckBaseline_effect trk h
  | setAckPending trk => exact setAckPending_effect trk h
  | getAck trk => exact getAck_effect trk h
  | setPowerMode trk => exact setPowerMode_effect trk h
  | getPowerMode trk => exact getPowerMode_effect trk h
  | setPowerModeId trk => exact setPowerModeId_effect trk h
  | getPowerModeId trk => exact getPowerModeId_effect trk h
  | poll trk => exact of_next (.answered _ _ _) h
  | setConfig trk => exact of_next (.configured _) h
  | opReserved0 _ | opReservedB _ | opReservedC _ | opReservedD _ | opReservedE _ | opReservedF _
  | opReservedLowbits _ => exact of_next (.none s) h
  | _ => cases hi

/-- The decoder of the port gives commands of the port only. -/
theorem decodePort_isPortCommand (cmd : BitVec 8) : (decodePort cmd).isPortCommand = true := by
  revert cmd
  decide

/-! ### What keeps the invariant -/

/-- The configuration registers keep the width of the current limit (R40, R186). -/
theorem CfgRegs.write_ackLimit_lt (w : Nat) (g : CfgRegs) (reg : Nat) (v : BitVec 32) (h : g.ackLimit < 2 ^ w) :
    (g.write w reg v).ackLimit < 2 ^ w := by
  unfold CfgRegs.write
  split
  case h_3 => exact Nat.mod_lt _ (Nat.two_pow_pos w)
  all_goals exact h

/-- A sample is inside the width of a current (R8, R226). -/
theorem State.drawCurrent_lt (s : State) : s.drawCurrent < 2 ^ s.par.curW := Nat.mod_lt _ (Nat.two_pow_pos _)

/-- A baseline and its threshold are inside their widths, the threshold in one bit more (R33, R156). -/
theorem AckSession.baseline_inv (s : State) (S : AckSession) (h : S.Inv s.par.curW) :
    AckSession.Inv s.par.curW
      { S with ackBaseline := s.drawCurrent, ackThreshold := s.drawCurrent + s.thresholdDelta } := by
  have hc := s.drawCurrent_lt
  have hd : s.thresholdDelta < 2 ^ s.par.curW := Nat.mod_lt _ (Nat.two_pow_pos _)
  exact { h with baseline := hc, threshold := by show _ + _ < _; rw [pow_succ]; omega }

theorem AckSession.arm_inv (w : Nat) (now : Time) (S : AckSession) (h : S.Inv w) : (S.arm now).Inv w :=
  { h with
    detectedClosed := nofun
    maxCurrent := Nat.two_pow_pos w }

theorem State.Inv.setSession {s : State} (h : s.Inv) {S : AckSession} (hS : S.Inv s.par.curW) :
    (s.setSession S).Inv where
  main := h.main
  prog p hp := by
    obtain ⟨q, hq, rfl⟩ := Option.map_eq_some_iff.mp hp
    exact h.prog q hq
  session p hp := by
    obtain ⟨q, -, rfl⟩ := Option.map_eq_some_iff.mp hp
    exact hS
  ackLimit := h.ackLimit
  agents := h.agents

/-- Writing a track that exists with registers inside the bounds of that track. -/
theorem State.Inv.setTrack {s : State} (h : s.Inv) {k : TrackSel} {T : Track}
    (hT : T.Inv s.par (k == .main)) : (s.setTrack k T).Inv := by
  cases k with
  | main => exact { h with main := hT }
  | prog =>
    exact
      { h with
        prog := fun p hp => by
          obtain ⟨q, -, rfl⟩ := Option.map_eq_some_iff.mp hp
          exact hT
        session := fun p hp => by
          obtain ⟨q, hq, rfl⟩ := Option.map_eq_some_iff.mp hp
          exact h.session q hq }

/-- The bounds of either track that exists. -/
theorem State.Inv.track {s : State} (h : s.Inv) {k : TrackSel} {T : Track} (hT : s.track? k = some T) :
    T.Inv s.par (k == .main) := by
  cases k with
  | main =>
    injection hT with hT
    exact hT ▸ h.main
  | prog =>
    obtain ⟨p, hp, rfl⟩ := Option.map_eq_some_iff.mp hT
    exact h.prog p hp

/-- Every effect of a command keeps the invariant. -/
theorem CommandEffect.inv {s t : State} (e : CommandEffect s t) (h : s.Inv) : t.Inv := by
  cases e with
  | answered port out n => exact { h with }
  | configured reg => exact { h with ackLimit := CfgRegs.write_ackLimit_lt _ _ _ _ h.ackLimit }
  | baselined p hp => exact h.setSession (AckSession.baseline_inv s _ (h.session p hp))
  | armed p hp => exact h.setSession (AckSession.arm_inv _ _ _ (h.session p hp))
  | stored k T hT hn =>
    exact h.setTrack (Track.storePacket_inv _ _ _ _ _ (h.track hT) ((PortArgs.payload_length _).trans_le hn))

/-- Steps 4 to 6 of the tick keep the bounds of the programming track and of its session. -/
theorem State.progTick_inv {s : State} {p q : Prog} (hT : p.track.Inv s.par false) (hS : p.session.Inv s.par.curW)
    (h : s.progTick p = .ok q) : q.track.Inv s.par false ∧ q.session.Inv s.par.curW := by
  rcases s.progTick_cases p q h with ⟨-, U, hU, rfl⟩ | ⟨hw, -, rfl⟩ | ⟨hw, ho, rfl⟩
  · exact ⟨Track.advance_inv _ _ p.track U _ hT hU, hS⟩
  · exact ⟨{ hT with notPending := hw }, hS⟩
  · obtain ⟨⟨r, hr⟩, -⟩ := Prog.sampleTick_frame s.cfg s.drawCurrent s.env.nowUs s.env.nowMs
      { p with track := p.track.step }
    constructor
    · rw [State.detect, hr]
      exact { hT with notPending := hw }
    · exact Prog.sampleTick_session_inv _ _ _ _ _ _ s.drawCurrent_lt hS ho

theorem State.Inv.tickMain {s t : State} (h : s.Inv) (e : s.tickMain = .next t) : t.Inv := by
  obtain ⟨T, hT, rfl⟩ := s.tickMain_next t e
  exact { h with main := Track.resolve_inv _ _ _ T h.main hT }

theorem State.Inv.tickBoth {s t : State} {p : Prog} (h : s.Inv) (hp : s.prog = some p) (e : s.tickBoth p = .next t) :
    t.Inv := by
  obtain ⟨T, q, hT, hq, rfl⟩ := s.tickBoth_next t p e
  obtain ⟨hqT, hqS⟩ := State.progTick_inv (h.prog p hp) (h.session p hp) hq
  exact
    { h with
      main := Track.resolve_inv _ _ _ T h.main hT
      prog := fun r hr => by
        injection hr with hr
        exact hr ▸ hqT
      session := fun r hr => by
        injection hr with hr
        exact hr ▸ hqS }

/-- Whichever tick row the strobe runs, it keeps the invariant. -/
theorem execStrobe_inv {b : Bool} {s t : State} (h : s.Inv) (e : exec (decodeStrobe b) s = .next t) : t.Inv := by
  cases b with
  | false => exact h.tickMain e
  | true =>
    cases hp : s.prog with
    | none =>
      rw [decodeStrobe, if_pos rfl, execTick_of_none hp] at e
      exact h.tickMain e
    | some p =>
      rw [decodeStrobe, if_pos rfl, execTick_of_some hp] at e
      exact h.tickBoth hp e

theorem State.Inv.retire {s : State} (h : s.Inv) (isCommand : Bool) : (s.retire isCommand).Inv := by
  unfold State.retire
  split
  · exact { h with }
  · exact h

/-- The reset state of every configuration meets the invariant. -/
theorem State.resetWith_inv (hasProg : Bool) (p : Params) : (State.resetWith hasProg p).Inv where
  main := Track.reset_inv p true
  prog q hq := by
    cases hasProg <;> cases hq
    exact Track.reset_inv p false
  session q hq := by
    cases hasProg <;> cases hq
    exact ⟨fun _ => rfl, Nat.two_pow_pos _, Nat.two_pow_pos _, Nat.two_pow_pos _⟩
  ackLimit := p.ackLimit_lt
  agents := rfl

/-- A second reset event puts the block in its reset state and leaves the turns to come (R242). -/
theorem State.resetBlock_inv {s : State} (h : s.turns.all Turn.isAgent = true) : s.resetBlock.Inv :=
  { State.resetWith_inv s.prog.isSome s.par with agents := h }

/-- Settles O4: each of the turns an agent can take keeps the bounds. -/
theorem stepKeepsTheInvariant : Obligations.StepKeepsTheInvariant := by
  intro s t h e
  rcases step_cases h.agents e with he | ⟨rest, hr, ⟨d, he⟩ | ⟨d, a, u, he, rfl⟩ | ⟨d, rfl⟩ | rfl⟩
  · have hb : s.beginFreeTick.Inv := { h with }
    exact execStrobe_inv hb he
  · have hb : (s.beginTurn d rest).Inv := { h with agents := hr }
    exact execStrobe_inv hb he
  · have hb : ((s.beginTurn d rest).latchCommand a).Inv := { h with agents := hr }
    exact ((portCommand_effect (decodePort_isPortCommand a.cmd) he).inv hb).retire true
  · exact { h with agents := hr }
  · exact State.resetBlock_inv hr

/-- Settles O3, from the bounds of a track at reset. -/
theorem resetMeetsTheInvariant : Obligations.ResetMeetsTheInvariant := State.resetWith_inv

/-! ### What a track is at reset -/

/-- A track after reset holds the values of the reset table (R46). -/
theorem Track.reset_atReset (p : Params) (b : Bool) :
    (Track.reset p b).AtReset b (fillerBytes p b) (preambleBits p b) where
  isMainTrack := rfl
  state := rfl
  filler := by
    have h := Memory.bytes_writeBytes [] (fillerBytes p b) rfl
    rwa [fillerBytes_length] at h
  rest i hi := Memory.read_writeBytes_after [] 0 i _ (by rw [fillerBytes_length]; omega)
  transmitLength := rfl
  bytesSent := rfl
  bitsSent := rfl
  requiredPreambles := (Track.reset_inv p b).required
  remainingPreambles := rfl
  transmitRepeats := rfl
  pendingBuffer _ := rfl
  pendingLength := rfl
  pendingRepeats := rfl
  packetPending := rfl
  sentResetsSincePacket := rfl

/-- Settles O1, from the reset table of a track. -/
theorem resetGivesTheStatedValues : Obligations.ResetGivesTheStatedValues := by
  intro hasProg p
  refine ⟨Track.reset_atReset p true, ?_, fun q hq => ?_, rfl, rfl, rfl⟩
  · cases hasProg <;> rfl
  · cases hasProg <;> cases hq
    exact ⟨Track.reset_atReset p false, rfl⟩

/-! ### What the instructions leave of a track -/

/-- The same tracks exist in `s` and in `t`, and each reads the same under `π`: a choice of its registers. -/
def State.TracksAgree {α : Type} (π : Track → α) (s t : State) : Prop :=
  ∀ k, (t.track? k).map π = (s.track? k).map π

theorem State.TracksAgree.refl {α : Type} (π : Track → α) (s : State) : State.TracksAgree π s s := fun _ => rfl

theorem State.TracksAgree.track {α : Type} {π : Track → α} {s t : State} (h : State.TracksAgree π s t) {k : TrackSel}
    {T U : Track} (hT : s.track? k = some T) (hU : t.track? k = some U) : π U = π T := by
  have hk := h k
  rw [hT, hU] at hk
  exact Option.some.inj hk

/-- Writing a track with registers that read the same. -/
theorem State.tracksAgree_setTrack {α : Type} {π : Track → α} {s : State} {k : TrackSel} {T U : Track}
    (hT : s.track? k = some T) (hU : π U = π T) : State.TracksAgree π s (s.setTrack k U) := by
  intro j
  by_cases hj : j = k
  · subst hj
    rw [s.track?_setTrack j U (by rw [hT]; rfl), hT]
    exact congrArg some hU
  · rw [s.track?_setTrack_other k j U hj]

/-- Writing the session touches no track. -/
theorem State.tracksAgree_setSession {α : Type} (π : Track → α) (s : State) (S : AckSession) :
    State.TracksAgree π s (s.setSession S) := by
  intro k
  cases k with
  | main => rfl
  | prog => cases hp : s.prog <;> simp [hp]

/-- A command writes of a track at most what storing a packet writes (R141). -/
theorem CommandEffect.tracksAgree {α : Type} {π : Track → α} (hπ : ∀ T bs r, π (Track.storePacket bs r T) = π T)
    {s t : State} (e : CommandEffect s t) : State.TracksAgree π s t := by
  cases e with
  | answered port out n => exact .refl π s
  | configured reg => exact .refl π s
  | baselined p hp => exact s.tracksAgree_setSession π _
  | armed p hp => exact s.tracksAgree_setSession π _
  | stored k T hT hn => exact State.tracksAgree_setTrack hT (hπ T _ _)

/-- The registers of a track that its encoder owns: the position and the packet in transmission (R31, R72). -/
def Track.transmitSide (T : Track) : (Wave × BitVec 8 × BitVec 8 × Fin 9) × Memory × BitVec 8 × BitVec 8 :=
  (T.position, T.transmitBuffer, T.transmitLength, T.transmitRepeats)

/-- Settles O7: a command writes of a track only the pending side, as storing a packet does. -/
theorem controlNeverMovesTheEncoder : Obligations.ControlNeverMovesTheEncoder := by
  intro i s t hi e k T U hT hU
  have agree : State.TracksAgree Track.transmitSide s t :=
    (portCommand_effect hi e).tracksAgree fun _ _ _ => rfl
  simpa only [Track.transmitSide, Prod.mk.injEq] using agree.track hT hU

/-! ### The constants -/

/-- The two constant registers of a track (R21). -/
def Track.constants (T : Track) : Bool × BitVec 8 := (T.isMainTrack, T.requiredPreambles)

theorem Track.packetBoundary_constants (p : Params) (T : Track) : (T.packetBoundary p).constants = T.constants := by
  rcases T.packetBoundary_cases p with ⟨-, e⟩ | ⟨-, -, e⟩ | ⟨-, -, e⟩ <;> rw [e] <;> rfl

theorem Track.moveCursor_constants (p : Params) (T : Track) : (T.moveCursor p).constants = T.constants := by
  rcases T.moveCursor_cases p with ⟨k, -, e⟩ | ⟨-, -, e⟩ | ⟨-, -, e⟩ <;> rw [e]
  · rfl
  · rfl
  · exact Track.packetBoundary_constants p _

theorem Track.advance_constants {p : Params} {T U : Track} (h : T.advance p = .ok U) : U.constants = T.constants := by
  rcases T.advance_cases p U h with ⟨-, rfl⟩ | ⟨-, -, b, rfl⟩
  · rfl
  · exact Track.moveCursor_constants p _

theorem Track.resolve_constants {p : Params} {T U : Track} (h : T.resolve p = .ok U) : U.constants = T.constants := by
  unfold Track.resolve at h
  split at h
  · exact Track.advance_constants h
  · injection h with h
    rw [h]

theorem Track.resolveBit_constants {n : Nat} {k : Fin 9} {T U : Track} (h : T.resolveBit n k = .ok U) :
    U.constants = T.constants := by
  unfold Track.resolveBit at h
  split at h
  · injection h with h
    rw [← h]
    rfl
  · cases h

/-- What the state holds beside the block's registers and outputs: the parameters, the presence of the programming track,
the inputs of the step, and what the agents have still to do. -/
def State.surroundings (s : State) : Params × Bool × Draws × List Turn × List PortArgs :=
  (s.par, s.hasProg, s.env, s.turns, s.ctl)

/-- Nothing outside the block and no constant of a track differs (R21, R24). -/
structure State.SameConstants (s t : State) : Prop where
  surroundings : t.surroundings = s.surroundings
  tracks : State.TracksAgree Track.constants s t

theorem State.SameConstants.refl (s : State) : s.SameConstants s := ⟨rfl, .refl _ s⟩

theorem State.sameConstants_setTrack {s : State} {k : TrackSel} {T U : Track} (hT : s.track? k = some T)
    (hU : U.constants = T.constants) : s.SameConstants (s.setTrack k U) :=
  ⟨by simp [State.surroundings], State.tracksAgree_setTrack hT hU⟩

/-- Asserting a level changes the outputs only. -/
theorem State.sameConstants_setSignal (s : State) (k : TrackSel) (l : Level) : s.SameConstants (s.setSignal k l) :=
  ⟨by simp [State.surroundings, State.hasProg], fun j => by rw [s.setSignal_track? k j l]⟩

/-- Answering changes the port only. -/
theorem State.sameConstants_respond (s : State) (r : Response) : s.SameConstants (s.respond r) := ⟨rfl, .refl _ s⟩

/-- Writing the session changes no track and nothing outside. -/
theorem State.sameConstants_setSession (s : State) (S : AckSession) : s.SameConstants (s.setSession S) :=
  ⟨by simp [State.surroundings, State.hasProg], s.tracksAgree_setSession _ S⟩

theorem State.SameConstants.trans {s t u : State} (h : s.SameConstants t) (h' : t.SameConstants u) :
    s.SameConstants u :=
  ⟨h'.surroundings.trans h.surroundings, fun k => (h'.tracks k).trans (h.tracks k)⟩

/-- An operation on one track that keeps its constants. -/
theorem State.sameConstants_onTrack {s t : State} {k : TrackSel} {f : Track → Except Fault Track}
    (hf : ∀ T U, f T = .ok U → U.constants = T.constants) (h : s.onTrack k f = .next t) : s.SameConstants t := by
  rcases s.onTrack_cases k f with ⟨-, e⟩ | ⟨T, U, hT, hU, e⟩ | ⟨T, _, -, -, e⟩ <;> rw [e] at h
  · exact of_next (.refl s) h
  · exact of_next (State.sameConstants_setTrack hT (hf T U hU)) h
  · cases h

/-- An operation on one track that always completes and keeps its constants. -/
theorem State.sameConstants_onTrack_ok {s t : State} {k : TrackSel} {f : Track → Track}
    (hf : ∀ T, (f T).constants = T.constants) (h : s.onTrack k (fun T => .ok (f T)) = .next t) : s.SameConstants t :=
  State.sameConstants_onTrack (fun T U hU => by injection hU with hU; exact hU ▸ hf T) h

theorem State.sameConstants_maskRow {s t : State} {b : Fin 9} {k : TrackSel} (h : s.maskRow b k = .next t) :
    s.SameConstants t :=
  State.sameConstants_onTrack (fun _ _ => Track.resolveBit_constants) h

theorem State.sameConstants_waveRow {s t : State} {w : Wave} {k : TrackSel} (h : s.waveRow w k = .next t) :
    s.SameConstants t := by
  unfold State.waveRow at h
  split at h
  · exact of_next (.refl s) h
  · rename_i T hT
    split at h
    · rename_i U hU
      have hk : (s.setSignal k (levelOf w)).track? k = some T := by rw [s.setSignal_track?, hT]
      have hc := State.sameConstants_setTrack hk (Track.resolve_constants (T := { T with state := nextWave w }) hU)
      exact of_next ((s.sameConstants_setSignal k _).trans hc) h
    · cases h

theorem State.sameConstants_levelRow (s : State) (l : Level) (k : TrackSel) : s.SameConstants (s.levelRow l k) := by
  unfold State.levelRow
  split
  · exact .refl s
  · exact s.sameConstants_setSignal k l

theorem State.sameConstants_execLevel {s t : State} {k : TrackSel} (h : execLevel k s = .next t) :
    s.SameConstants t := by
  unfold execLevel at h
  split at h
  · exact of_next (.refl s) h
  · exact of_next (s.sameConstants_respond _) h

/-- No effect of a command touches a constant. -/
theorem CommandEffect.sameConstants {s t : State} (e : CommandEffect s t) : s.SameConstants t := by
  cases e with
  | answered port out n => exact ⟨rfl, .refl _ s⟩
  | configured reg => exact ⟨rfl, .refl _ s⟩
  | baselined p hp => exact s.sameConstants_setSession _
  | armed p hp => exact s.sameConstants_setSession _
  | stored k T hT hn => exact State.sameConstants_setTrack hT rfl

/-- The detector writes of the track only its repeats. -/
theorem Prog.sampleTick_constants (g : CfgRegs) (c : Nat) (us ms : Time) (p : Prog) :
    (p.sampleTick g c us ms).track.constants = p.track.constants := by
  obtain ⟨⟨r, hr⟩, -⟩ := Prog.sampleTick_frame g c us ms p
  rw [hr]
  rfl

theorem State.progTick_constants {s : State} {p q : Prog} (h : s.progTick p = .ok q) :
    q.track.constants = p.track.constants := by
  rcases s.progTick_cases p q h with ⟨-, U, hU, rfl⟩ | ⟨-, -, rfl⟩ | ⟨-, -, rfl⟩
  · exact Track.advance_constants (T := p.track.step) hU
  · rfl
  · exact Prog.sampleTick_constants _ _ _ _ _

theorem State.sameConstants_execSampleTick {s t : State} (h : execSampleTick s = .next t) : s.SameConstants t := by
  unfold execSampleTick at h
  split at h
  · exact of_next (.refl s) h
  · rename_i p hp
    refine of_next ⟨by simp [State.surroundings, State.hasProg, hp], fun k => ?_⟩ h
    cases k with
    | main => rfl
    | prog =>
      rw [State.track?_prog, State.track?_prog, hp]
      exact congrArg some (Prog.sampleTick_constants _ _ _ _ _)

theorem State.sameConstants_tickMain {s t : State} (h : s.tickMain = .next t) : s.SameConstants t := by
  obtain ⟨T, hT, rfl⟩ := s.tickMain_next t h
  refine ⟨rfl, fun k => ?_⟩
  cases k with
  | main => exact congrArg some (Track.resolve_constants (T := s.main.step) hT)
  | prog => rfl

theorem State.sameConstants_tickBoth {s t : State} {p : Prog} (hp : s.prog = some p) (h : s.tickBoth p = .next t) :
    s.SameConstants t := by
  obtain ⟨T, q, hT, hq, rfl⟩ := s.tickBoth_next t p h
  refine ⟨by simp [State.surroundings, State.hasProg, State.afterMain, hp], fun k => ?_⟩
  cases k with
  | main => exact congrArg some (Track.resolve_constants (T := s.main.step) hT)
  | prog =>
    rw [State.track?_prog, State.track?_prog, hp]
    exact congrArg some (State.progTick_constants hq)

theorem State.sameConstants_execTick {s t : State} (h : exec .tick s = .next t) : s.SameConstants t := by
  cases hp : s.prog with
  | none =>
    rw [execTick_of_none hp] at h
    exact State.sameConstants_tickMain h
  | some p =>
    rw [execTick_of_some hp] at h
    exact State.sameConstants_tickBoth hp h

/-- No instruction touches a constant. -/
theorem exec_sameConstants {i : Instr} {s t : State} (h : exec i s = .next t) : s.SameConstants t := by
  by_cases hi : i.isPortCommand = true
  · exact (portCommand_effect hi h).sameConstants
  cases i with
  | waveStart k => exact State.sameConstants_waveRow (w := .start) h
  | waveMid1 k => exact State.sameConstants_waveRow (w := .mid1) h
  | waveHigh0 k => exact State.sameConstants_waveRow (w := .high0) h
  | waveMid0 k => exact State.sameConstants_waveRow (w := .mid0) h
  | waveLow0 k => exact State.sameConstants_waveRow (w := .low0) h
  | wavePending k => exact State.sameConstants_waveRow (w := .pending) h
  | waveReserved6 | waveReserved7 | ackResultReserved3 => cases h
  | tick => exact State.sameConstants_execTick h
  | tickMainOnly => exact State.sameConstants_tickMain h
  | level k => exact State.sameConstants_execLevel h
  | step k => exact State.sameConstants_onTrack_ok (f := Track.step) (fun _ => rfl) h
  | advance k => exact State.sameConstants_onTrack (fun _ _ => Track.advance_constants) h
  | packetBoundary k => exact State.sameConstants_onTrack_ok (Track.packetBoundary_constants s.par) h
  | sampleTick => exact State.sameConstants_execSampleTick h
  | ackResultNoAck | ackResultAck | ackResultPending => exact of_next (s.sameConstants_respond _) h
  | levelLow k | levelHigh k => exact of_next (s.sameConstants_levelRow _ k) h
  | bitmask0 k | bitmask1 k | bitmask2 k | bitmask3 k | bitmask4 k | bitmask5 k | bitmask6 k | bitmask7 k
  | bitmask8 k => exact State.sameConstants_maskRow h
  | idlePacket =>
    exact State.sameConstants_onTrack_ok (k := .main) (f := Track.loadFiller s.par.idlePacket) (fun _ => rfl) h
  | resetPacket =>
    exact State.sameConstants_onTrack_ok (k := .prog) (f := Track.loadFiller s.par.resetPacket) (fun _ => rfl) h
  | cfgProgTrackSyncMain | cfgProgTrackBoosted | cfgAckLimit | cfgMinAckPulseDuration | cfgMaxAckPulseDuration
  | cfgReserved5 | cfgReserved6 | cfgReserved7 => exact of_next (CommandEffect.configured _).sameConstants h
  | _ => exact absurd rfl hi

/-- Settles O6, from the frame of each instruction. -/
theorem constantsAreNeverWritten : Obligations.ConstantsAreNeverWritten := by
  intro i s t e
  obtain ⟨out, tracks⟩ := exec_sameConstants e
  simp only [State.surroundings, Prod.mk.injEq] at out
  obtain ⟨hpar, hprog, henv, hturns, hctl⟩ := out
  refine ⟨hpar, hprog, henv, hturns, hctl, fun k T U hT hU => ?_⟩
  simpa only [Track.constants, Prod.mk.injEq] using tracks.track hT hU

/-! ### The closed session -/

/-- Steps 4 to 6 of the tick reach the session only through the detector, which a closed session does not run (R196). -/
theorem State.progTick_session_of_closed {s : State} {p q : Prog} (hc : p.session.ackPending = false)
    (h : s.progTick p = .ok q) : q.session = p.session := by
  rcases s.progTick_cases p q h with ⟨-, U, -, rfl⟩ | ⟨-, -, rfl⟩ | ⟨-, ho, -⟩
  · rfl
  · rfl
  · rw [hc] at ho
    cases ho

/-- Settles O11: the two-track tick takes the session from steps 4 to 6. -/
theorem closedSessionIsLeftAlone : Obligations.ClosedSessionIsLeftAlone := by
  intro s t p hp hc e
  rw [execTick_of_some hp] at e
  obtain ⟨T, q, -, hq, rfl⟩ := s.tickBoth_next t p e
  exact ⟨q, rfl, State.progTick_session_of_closed hc hq⟩

end Sys2Proof.Machine
end

section
/-! PROOFS of the family 20_memory.md: which rows leave every byte of the packet buffers, when a tick may store, what a
tick takes each track from, how long a pending packet waits, what one step runs, and where a cursor outside the buffer
stops. -/

namespace Sys2Proof.Machine

/-! ### The bytes of the packet buffers -/

/-- The two packet buffers of a track, the transmit buffer first. -/
def Track.buffers (T : Track) : Memory × Memory := (T.transmitBuffer, T.pendingBuffer)

/-- A byte of a packet buffer is read from the buffers of its track and from nothing else. -/
theorem State.bufferByte_eq (s : State) (k : TrackSel) (pending : Bool) (a : Nat) :
    s.bufferByte k pending a = ((s.track? k).map Track.buffers).elim Memory.unlisted
      fun b => (if pending then b.2 else b.1).read a := by
  unfold State.bufferByte
  cases s.track? k <;> rfl

theorem State.bufferByte_congr {s t : State} {k : TrackSel}
    (h : (t.track? k).map Track.buffers = (s.track? k).map Track.buffers) (pending : Bool) (a : Nat) :
    t.bufferByte k pending a = s.bufferByte k pending a := by
  rw [State.bufferByte_eq, State.bufferByte_eq, h]

/-! ### The rows that store nothing -/

/-- An instruction that answers a state with both sides of the block as they were. -/
theorem State.tracksAgree_next {α : Type} (π : Track → α) {s u t : State} (h : (.next u : Result) = .next t)
    (hm : u.main = s.main) (hp : u.prog = s.prog) : State.TracksAgree π s t := by
  refine of_next (fun k => ?_) h
  cases k with
  | main => rw [State.track?_main, State.track?_main, hm]
  | prog => rw [State.track?_prog, State.track?_prog, hp]

/-- A command of the port other than `schedulePacket` writes no track (R101). -/
theorem portCommand_tracksAgree {α : Type} (π : Track → α) {i : Instr} {s t : State} (hi : i.isPortCommand = true)
    (hs : mayStore i = false) (h : exec i s = .next t) : State.TracksAgree π s t := by
  cases i with
  | schedulePacket k => cases hs
  | setAckBaseline k | setAckPending k =>
    simp only [exec, execSetAckBaseline, execSetAckPending] at h
    split at h
    · exact State.tracksAgree_next π h rfl rfl
    · exact of_next (s.tracksAgree_setSession π _) h
  | getAck k | setPowerMode k | getPowerMode k | setPowerModeId k | getPowerModeId k =>
    simp only [exec, execGetAck, execSetPowerMode, execGetPowerMode, execSetPowerModeId, execGetPowerModeId] at h
    split at h <;> exact State.tracksAgree_next π h rfl rfl
  | poll k | setConfig k => exact State.tracksAgree_next π h rfl rfl
  | opReserved0 _ | opReservedB _ | opReservedC _ | opReservedD _ | opReservedE _ | opReservedF _
  | opReservedLowbits _ => exact State.tracksAgree_next π h rfl rfl
  | _ => cases hi

theorem State.tracksAgree_setSignal {α : Type} (π : Track → α) (s : State) (k : TrackSel) (l : Level) :
    State.TracksAgree π s (s.setSignal k l) :=
  fun j => by rw [s.setSignal_track? k j l]

theorem State.TracksAgree.trans {α : Type} {π : Track → α} {s t u : State} (h : State.TracksAgree π s t)
    (h' : State.TracksAgree π t u) : State.TracksAgree π s u :=
  fun k => (h' k).trans (h k)

/-- An operation on one track that keeps the registers `π` reads. -/
theorem State.tracksAgree_onTrack {α : Type} {π : Track → α} {s t : State} {k : TrackSel}
    {f : Track → Except Fault Track} (hf : ∀ T U, f T = .ok U → π U = π T) (h : s.onTrack k f = .next t) :
    State.TracksAgree π s t := by
  rcases s.onTrack_cases k f with ⟨-, e⟩ | ⟨T, U, hT, hU, e⟩ | ⟨T, _, -, -, e⟩ <;> rw [e] at h
  · exact of_next (.refl π s) h
  · exact of_next (State.tracksAgree_setTrack hT (hf T U hU)) h
  · cases h

/-- A wave row whose next state is a wave state asserts its level and moves the state (R82, R83). -/
theorem State.waveRow_settled {s : State} {w : Wave} {k : TrackSel} {T : Track} (hw : nextWave w ≠ .pending)
    (hT : s.track? k = some T) :
    s.waveRow w k = .next ((s.setSignal k (levelOf w)).setTrack k { T with state := nextWave w }) := by
  simp only [State.waveRow, hT, Track.resolve, if_neg hw]

theorem State.waveRow_of_noTrack {s : State} {w : Wave} {k : TrackSel} (hT : s.track? k = none) :
    s.waveRow w k = .next s := by
  simp only [State.waveRow, hT]

theorem State.tracksAgree_waveRow {s t : State} {w : Wave} {k : TrackSel} (hw : nextWave w ≠ .pending)
    (h : s.waveRow w k = .next t) : State.TracksAgree Track.buffers s t := by
  cases hT : s.track? k with
  | none =>
    rw [State.waveRow_of_noTrack hT] at h
    exact of_next (.refl _ s) h
  | some T =>
    rw [State.waveRow_settled hw hT] at h
    have hk : (s.setSignal k (levelOf w)).track? k = some T := by rw [s.setSignal_track?, hT]
    have moved := State.tracksAgree_setTrack (π := Track.buffers) (U := { T with state := nextWave w }) hk rfl
    exact of_next ((s.tracksAgree_setSignal _ k _).trans moved) h

theorem State.tracksAgree_levelRow {α : Type} (π : Track → α) (s : State) (l : Level) (k : TrackSel) :
    State.TracksAgree π s (s.levelRow l k) := by
  unfold State.levelRow
  split
  · exact .refl π s
  · exact s.tracksAgree_setSignal π k l

theorem State.tracksAgree_execLevel {α : Type} (π : Track → α) {s t : State} {k : TrackSel}
    (h : execLevel k s = .next t) : State.TracksAgree π s t := by
  unfold execLevel at h
  split at h <;> exact State.tracksAgree_next π h rfl rfl

/-- A bit looked up and given its wave state changes the state only (R87). -/
theorem Track.resolveBit_eq_giveBit {n : Nat} {k : Fin 9} {T U : Track} (h : T.resolveBit n k = .ok U) :
    ∃ b, U = T.giveBit b := by
  by_cases hc : T.bytesSent.toNat ≤ n
  · rw [Track.resolveBit_inside n T k hc] at h
    injection h with h
    exact ⟨_, h.symm⟩
  · rw [Track.resolveBit_outside n T k (by omega)] at h
    cases h

theorem State.tracksAgree_maskRow {s t : State} {b : Fin 9} {k : TrackSel} (h : s.maskRow b k = .next t) :
    State.TracksAgree Track.buffers s t := by
  refine State.tracksAgree_onTrack (fun T U hU => ?_) h
  obtain ⟨c, rfl⟩ := Track.resolveBit_eq_giveBit hU
  rfl

/-- The detector writes of the track at most its repeats (R162). -/
theorem Prog.sampleTick_buffers (g : CfgRegs) (c : Nat) (us ms : Time) (p : Prog) :
    (p.sampleTick g c us ms).track.buffers = p.track.buffers := by
  obtain ⟨⟨r, hr⟩, -⟩ := Prog.sampleTick_frame g c us ms p
  rw [hr]
  rfl

theorem State.tracksAgree_execSampleTick {s t : State} (h : execSampleTick s = .next t) :
    State.TracksAgree Track.buffers s t := by
  unfold execSampleTick at h
  split at h
  · exact of_next (.refl _ s) h
  · rename_i p hp
    refine of_next (fun k => ?_) h
    cases k with
    | main => rfl
    | prog =>
      rw [State.track?_prog, State.track?_prog, hp]
      exact congrArg some (Prog.sampleTick_buffers _ _ _ _ _)

/-- No row outside `mayStore` touches a packet buffer (R60). -/
theorem exec_keeps_buffers {i : Instr} {s t : State} (hs : mayStore i = false) (h : exec i s = .next t) :
    State.TracksAgree Track.buffers s t := by
  by_cases hi : i.isPortCommand = true
  · exact portCommand_tracksAgree _ hi hs h
  cases i with
  | waveStart _ | wavePending _ | advance _ | packetBoundary _ | tick | tickMainOnly | idlePacket | resetPacket =>
    cases hs
  | waveMid1 k => exact State.tracksAgree_waveRow (w := .mid1) (by decide) h
  | waveHigh0 k => exact State.tracksAgree_waveRow (w := .high0) (by decide) h
  | waveMid0 k => exact State.tracksAgree_waveRow (w := .mid0) (by decide) h
  | waveLow0 k => exact State.tracksAgree_waveRow (w := .low0) (by decide) h
  | waveReserved6 | waveReserved7 | ackResultReserved3 => cases h
  | level k => exact State.tracksAgree_execLevel _ h
  | step k => exact State.tracksAgree_onTrack (f := fun T => .ok T.step) (fun T U hU => by cases hU; rfl) h
  | sampleTick => exact State.tracksAgree_execSampleTick h
  | ackResultNoAck | ackResultAck | ackResultPending => exact State.tracksAgree_next _ h rfl rfl
  | levelLow k | levelHigh k => exact of_next (s.tracksAgree_levelRow _ _ k) h
  | bitmask0 k | bitmask1 k | bitmask2 k | bitmask3 k | bitmask4 k | bitmask5 k | bitmask6 k | bitmask7 k
  | bitmask8 k => exact State.tracksAgree_maskRow h
  | cfgProgTrackSyncMain | cfgProgTrackBoosted | cfgAckLimit | cfgMinAckPulseDuration | cfgMaxAckPulseDuration
  | cfgReserved5 | cfgReserved6 | cfgReserved7 => exact State.tracksAgree_next _ h rfl rfl
  | _ => exact absurd rfl hi

/-- Settles O9: no such row touches a packet buffer, and a byte is read from its buffer. -/
theorem nonStoringRowsLeaveEveryBufferByte : Obligations.NonStoringRowsLeaveEveryBufferByte :=
  fun _ _ _ hs h k pending a => State.bufferByte_congr (exec_keeps_buffers hs h k) pending a

/-! ### What a tick takes each track from -/

/-- The main track after a tick, and its level, come from the main track alone (R196 steps 1, 4 and 5). -/
theorem execTick_main {s t : State} (h : exec .tick s = .next t) :
    s.main.step.resolve s.par = .ok t.main ∧ t.mainSignal = levelOf s.main.state := by
  cases hp : s.prog with
  | none =>
    rw [execTick_of_none hp] at h
    obtain ⟨T, hT, rfl⟩ := s.tickMain_next t h
    exact ⟨hT, rfl⟩
  | some p =>
    rw [execTick_of_some hp] at h
    obtain ⟨T, q, hT, -, rfl⟩ := s.tickBoth_next t p h
    exact ⟨hT, rfl⟩

/-- The programming side after a tick is what steps 4 to 6 make of it (R196). -/
theorem execTick_prog {s t : State} {p : Prog} (hp : s.prog = some p) (h : exec .tick s = .next t) :
    ∃ q, s.progTick p = .ok q ∧ t.prog = some q := by
  rw [execTick_of_some hp] at h
  obtain ⟨T, q, -, hq, rfl⟩ := s.tickBoth_next t p h
  exact ⟨q, hq, rfl⟩

theorem execTick_prog_none {s t : State} (hp : s.prog = none) (h : exec .tick s = .next t) : t.prog = none := by
  rw [execTick_of_none hp] at h
  obtain ⟨T, -, rfl⟩ := s.tickMain_next t h
  exact hp

/-- Settles O45: the main track after a tick is its own next step, and the programming side is what `progTick` makes of
it, which reads `cfg` and the inputs beside it. -/
theorem tracksDoNotInteractInATick : Obligations.TracksDoNotInteractInATick := by
  intro s s' t t' hpar h h'
  constructor
  · intro hmain
    obtain ⟨hT, hl⟩ := execTick_main h
    obtain ⟨hT', hl'⟩ := execTick_main h'
    rw [hmain, hpar, hT'] at hT
    injection hT with hT
    exact ⟨hT.symm, by rw [hl, hl', hmain]⟩
  · intro hprog hcfg henv
    cases hp : s'.prog with
    | none => rw [execTick_prog_none (hprog.trans hp) h, execTick_prog_none hp h']
    | some p =>
      obtain ⟨q, hq, e⟩ := execTick_prog (hprog.trans hp) h
      obtain ⟨q', hq', e'⟩ := execTick_prog hp h'
      rw [State.progTick_congr s s' p hpar hcfg henv, hq'] at hq
      injection hq with hq
      rw [e, e', hq]

/-! ### When a tick stores -/

/-- The cursor moves past the packet boundary only where the last bit of the last byte is resolved (R117, R118). -/
theorem Track.moveCursor_buffers (p : Params) {T : Track}
    (he : ¬ (T.bitsSent = 8 ∧ T.transmitLength.toNat ≤ T.bytesSent.toNat + 1)) :
    (T.moveCursor p).buffers = T.buffers := by
  rcases T.moveCursor_cases p with ⟨k, -, e⟩ | ⟨-, -, e⟩ | ⟨h8, hl, -⟩
  · rw [e]
    rfl
  · rw [e]
    rfl
  · have hle : (T.bytesSent + 1).toNat ≤ T.bytesSent.toNat + 1 := by
      rw [BitVec.toNat_add]
      exact Nat.mod_le _ _
    exact absurd ⟨h8, hl.trans hle⟩ he

theorem Track.advance_buffers {p : Params} {T U : Track} (he : ¬ T.endsPacket) (h : T.advance p = .ok U) :
    U.buffers = T.buffers := by
  rcases T.advance_cases p U h with ⟨-, rfl⟩ | ⟨hp, -, b, rfl⟩
  · rfl
  · exact Track.moveCursor_buffers p (T := T.giveBit b) fun hc => he ⟨hp, hc⟩

/-- Only `START` has the next state `PENDING`, beside `PENDING` itself (R82). -/
theorem nextWave_eq_pending {w : Wave} (hn : w ≠ .pending) (h : nextWave w = .pending) : w = .start := by
  cases w with
  | start => rfl
  | pending => exact absurd rfl hn
  | _ => cases h

/-- A track that the table transition takes to `PENDING`, and whose packet does not end there, resolves its next bit
without a store (R72). -/
theorem Track.advance_step_buffers {p : Params} {T U : Track} (he : ¬ (T.state = .start ∧ T.endsPacket))
    (hn : T.state ≠ .pending) (hw : nextWave T.state = .pending) (h : T.step.advance p = .ok U) :
    U.buffers = T.buffers := by
  have hend : ¬ T.step.endsPacket := fun hc => he ⟨nextWave_eq_pending hn hw, hc⟩
  exact Track.advance_buffers hend h

/-- One step of the tick on a track that does not end its packet leaves the track's buffers (R72). -/
theorem Track.resolve_buffers {p : Params} {T U : Track} (he : ¬ (T.state = .start ∧ T.endsPacket))
    (hn : T.state ≠ .pending) (h : T.step.resolve p = .ok U) : U.buffers = T.buffers := by
  unfold Track.resolve at h
  split at h
  · rename_i hw
    exact Track.advance_step_buffers he hn hw h
  · injection h with h
    rw [← h]
    rfl

theorem State.progTick_buffers {s : State} {p q : Prog} (he : ¬ (p.track.state = .start ∧ p.track.endsPacket))
    (hn : p.track.state ≠ .pending) (h : s.progTick p = .ok q) : q.track.buffers = p.track.buffers := by
  rcases s.progTick_cases p q h with ⟨hw, U, hU, rfl⟩ | ⟨-, -, rfl⟩ | ⟨-, -, rfl⟩
  · exact Track.advance_step_buffers he hn hw hU
  · rfl
  · exact Prog.sampleTick_buffers _ _ _ _ _

/-- Settles O10: on either track the tick reaches the buffers only through the packet boundary in `advance`. -/
theorem tickStoresOnlyAtThePacketEnd : Obligations.TickStoresOnlyAtThePacketEnd := by
  intro s t h k T hT he hn pending a
  refine State.bufferByte_congr ?_ pending a
  cases k with
  | main =>
    obtain ⟨hU, -⟩ := execTick_main h
    injection hT with hT
    subst hT
    exact congrArg some (Track.resolve_buffers he hn hU)
  | prog =>
    obtain ⟨p, hp, rfl⟩ := Option.map_eq_some_iff.mp hT
    obtain ⟨q, hq, ht⟩ := execTick_prog hp h
    rw [State.track?_prog, State.track?_prog, hp, ht]
    exact congrArg some (State.progTick_buffers he hn hq)

/-! ### How long a pending packet waits -/

/-- A boundary with repeats left counts one down and leaves the slot (R119). -/
theorem Track.packetBoundary_repeats {p : Params} {T : Track} (h : T.transmitRepeats.toNat ≠ 0) :
    (T.packetBoundary p).transmitRepeats.toNat = T.transmitRepeats.toNat - 1 ∧
    (T.packetBoundary p).packetPending = T.packetPending := by
  rcases T.packetBoundary_cases p with ⟨hr, e⟩ | ⟨h0, -⟩ | ⟨h0, -⟩
  · rw [e]
    exact ⟨toNat_pred T.transmitRepeats hr, rfl⟩
  · exact absurd (congrArg BitVec.toNat h0) h
  · exact absurd (congrArg BitVec.toNat h0) h

/-- A boundary with no repeats left leaves the slot free (R120, R121). -/
theorem Track.packetBoundary_frees {p : Params} {T : Track} (h : T.transmitRepeats.toNat = 0) :
    (T.packetBoundary p).packetPending = false := by
  rcases T.packetBoundary_cases p with ⟨hr, -⟩ | ⟨-, -, e⟩ | ⟨-, hp, e⟩
  · exact absurd (BitVec.eq_of_toNat_eq h) hr
  · rw [e]
  · rw [e]
    exact hp

/-- The last of `n + 1` boundaries follows the other `n`. -/
theorem boundaries_succ (p : Params) (n : Nat) (T : Track) :
    boundaries p (n + 1) T = (boundaries p n T).packetBoundary p := by
  induction n generalizing T with
  | zero => rfl
  | succ n ih => exact ih (T.packetBoundary p)

/-- While repeats are left the boundaries count them down and leave the slot (R71). -/
theorem boundaries_repeats (p : Params) (T : Track) (k : Nat) (hk : k ≤ T.transmitRepeats.toNat) :
    (boundaries p k T).transmitRepeats.toNat = T.transmitRepeats.toNat - k ∧
    (boundaries p k T).packetPending = T.packetPending := by
  induction k with
  | zero => exact ⟨rfl, rfl⟩
  | succ k ih =>
    obtain ⟨hr, hs⟩ := ih (by omega)
    have left : (boundaries p k T).transmitRepeats.toNat ≠ 0 := by omega
    obtain ⟨hr', hs'⟩ := Track.packetBoundary_repeats (p := p) left
    rw [boundaries_succ]
    exact ⟨by omega, hs'.trans hs⟩

/-- Settles O32: the boundaries count the repeats down to none, and the next one frees the slot. -/
theorem slotIsFreedAfterTheRepeats : Obligations.SlotIsFreedAfterTheRepeats := by
  intro p T hT
  constructor
  · intro k hk
    rw [(boundaries_repeats p T k hk).2, hT]
  · obtain ⟨hr, -⟩ := boundaries_repeats p T T.transmitRepeats.toNat (le_refl _)
    rw [boundaries_succ]
    exact Track.packetBoundary_frees (by omega)

/-! ### What one step runs -/

/-- A row turn runs the row its code decodes to, and is refused where the decoder refuses the code (log entry 1). -/
theorem step_of_row {s : State} {c : Code} {d : Draws} {rest : List Turn} {i : Instr}
    (h : s.turns = .row c d :: rest) (hc : decode s.hasProg c = .ok i) : step s = exec i (s.beginTurn d rest) := by
  unfold step fetch
  simp only [h, fetchCode, hc]
  cases exec i (s.beginTurn d rest) <;> rfl

theorem step_of_row_error {s : State} {c : Code} {d : Draws} {rest : List Turn} {e : DecodeError}
    (h : s.turns = .row c d :: rest) (hc : decode s.hasProg c = .error e) : step s = .refused (.undecodable e) := by
  unfold step fetch
  simp only [h, fetchCode, hc]

/-- A command found held stays the next to issue; any other is done (R142, log entry 14). -/
theorem State.retire_command (s : State) :
    s.retire true = if s.busy then s else { s with ctl := s.ctl.tail } := by
  unfold State.retire
  cases s.busy <;> rfl

/-- Settles O17, one kind of turn at a time. -/
theorem stepRunsTheDecodedInstruction : Obligations.StepRunsTheDecodedInstruction :=
  fun s => ⟨step_of_noTurns s, step_of_strobe s, step_of_control s, step_of_control_nil s,
    fun _ _ _ _ => step_of_row, fun _ _ _ _ => step_of_row_error, fun t => congrArg _ t.retire_command⟩

/-! ### A cursor outside the buffer -/

/-- The mask rows are one operation at their index (R87). -/
theorem exec_maskInstr (k : Fin 9) (t : TrackSel) (s : State) : exec (maskInstr k t) s = s.maskRow k t := by
  fin_cases k <;> rfl

/-- Settles O25: both read the byte under the cursor, and the byte is not there. -/
theorem cursorOutsideTheBufferFaults : Obligations.CursorOutsideTheBufferFaults := by
  intro s t T hT hc
  constructor
  · intro hp
    have e : exec (.advance t) s = _ := s.onTrack_some t (Track.advance s.par) T hT
    rw [e, Track.advance_outside s.par T hp hc]
  · intro k
    rw [exec_maskInstr, State.maskRow, State.onTrack_some s t _ T hT,
      Track.resolveBit_outside s.par.maxPacketSize T k hc]

end Sys2Proof.Machine
end

section
/-! PROOFS of the family 30_encoding.md: decode and encode agree, the reserved codes are refused or do nothing, what each
table row does with its table, and the levels of one transmission, tick by tick. -/

namespace Sys2Proof.Machine

/-! ### Decode and encode -/

theorem decodePort_wf (cmd : BitVec 8) : (decodePort cmd).wf = true := by
  revert cmd
  decide

/-- A command word is the code of the command it decodes to (R101, R102). -/
theorem encode_decodePort (cmd : BitVec 8) : encode (decodePort cmd) = some (portCode cmd) := by
  revert cmd
  decide

/-- Settles O13. -/
theorem everyCommandWordIsACode : Obligations.EveryCommandWordIsACode :=
  fun cmd => ⟨decodePort_wf cmd, encode_decodePort cmd⟩

/-- A command word with a low bit set and an assigned operation code stands for itself (R102). -/
theorem decodePort_of_lowbits (cmd : BitVec 8) (h : (Instr.opReservedLowbits cmd).wf = true) :
    decodePort cmd = .opReservedLowbits cmd := by
  revert cmd
  decide

/-- Every well-formed command of the port is decoded from the low byte of its code: an assigned operation on each track,
a reserved operation code whatever its low bits, and set low bits (R101, R102). -/
theorem decodePort_encode {i : Instr} {c : Code} (hi : i.isPortCommand = true) (hwf : i.wf = true)
    (h : encode i = some c) : decodePort (c.word.extractLsb' 0 8) = i := by
  cases i with
  | schedulePacket trk | setAckBaseline trk | setAckPending trk | getAck trk | setPowerMode trk | getPowerMode trk
  | setPowerModeId trk | getPowerModeId trk | poll trk | setConfig trk =>
    cases h
    cases trk <;> rfl
  | opReserved0 low | opReservedB low | opReservedC low | opReservedD low | opReservedE low | opReservedF low =>
    cases h
    revert low
    decide
  | opReservedLowbits cmd =>
    cases h
    rw [BitVec.extractLsb'_append_eq_right]
    exact decodePort_of_lowbits cmd hwf
  | _ => cases hi

/-- A well-formed command is the decoding of a command word, and that word is its only code. -/
theorem decode_encode_command {hasProg : Bool} {i : Instr} {c : Code} (hi : i.isPortCommand = true)
    (hwf : i.wf = true) (h : encode i = some c) : decode hasProg c = .ok i := by
  have back := decodePort_encode hi hwf h
  have code := encode_decodePort (c.word.extractLsb' 0 8)
  rw [back, h] at code
  injection code with code
  rw [code, decode_portCode, back]

/-- The code of a well-formed instruction decodes to it in the configuration that has it: the commands by the port's
decoder, the tick rows by the configuration, every other row by its entry in the table of its space. -/
theorem decode_encode {hasProg : Bool} {i : Instr} {c : Code} (hwf : i.wf = true) (hsel : i.selectedBy hasProg = true)
    (h : encode i = some c) : decode hasProg c = .ok i := by
  by_cases hi : i.isPortCommand = true
  · exact decode_encode_command hi hwf h
  cases i with
  | waveReserved6 | waveReserved7 | ackResultReserved3 => cases hwf
  | tick =>
    obtain rfl : hasProg = true := hsel
    cases h
    rfl
  | tickMainOnly =>
    obtain rfl : hasProg = false := (Bool.not_eq_true' hasProg).mp hsel
    cases h
    rfl
  | waveStart t | waveMid1 t | waveHigh0 t | waveMid0 t | waveLow0 t | wavePending t
  | levelLow t | levelHigh t
  | bitmask0 t | bitmask1 t | bitmask2 t | bitmask3 t | bitmask4 t | bitmask5 t | bitmask6 t | bitmask7 t | bitmask8 t
  | ackResultNoAck | ackResultAck | ackResultPending | idlePacket | resetPacket
  | cfgProgTrackSyncMain | cfgProgTrackBoosted | cfgAckLimit | cfgMinAckPulseDuration | cfgMaxAckPulseDuration
  | cfgReserved5 | cfgReserved6 | cfgReserved7 =>
    cases h
    rfl
  | level _ | step _ | advance _ | packetBoundary _ | sampleTick => cases h
  | _ => exact absurd rfl hi

/-- Only the internal steps have no code (R111, R112, R116, R118, R158). -/
theorem encode_eq_none_iff (i : Instr) : encode i = none ↔ i.isInternalStep = true := by
  cases i with
  | level _ | step _ | advance _ | packetBoundary _ | sampleTick => exact ⟨fun _ => rfl, fun _ => rfl⟩
  | _ => exact ⟨nofun, nofun⟩

/-- Settles O12. -/
theorem decodeEncodeAgree : Obligations.DecodeEncodeAgree :=
  fun i _ hwf hsel => ⟨encode_eq_none_iff i, fun _ => decode_encode hwf hsel⟩

/-- Settles O14: each word is the code of the row it stands for. -/
theorem sampleWordsDecode : Obligations.SampleWordsDecode := by
  refine ⟨?_, ?_, ?_, ?_, ?_, ?_, ?_, ?_, ?_, ?_, ?_, ?_⟩ <;> exact decode_encode rfl rfl rfl

/-! ### The reserved codes -/

/-- Settles O15. -/
theorem reservedWaveCodesAreRefused : Obligations.ReservedWaveCodesAreRefused := by
  refine ⟨?_, fun _ => rfl, fun _ => rfl⟩
  rintro hasProg t w (rfl | rfl) <;> rfl

/-- Settles O16. -/
theorem reservedAckResultIsRefused : Obligations.ReservedAckResultIsRefused := ⟨fun _ _ => rfl, fun _ => rfl⟩

/-- Settles O51. -/
theorem reservedCommandsDoNothing : Obligations.ReservedCommandsDoNothing :=
  fun _ _ _ => ⟨rfl, rfl, rfl, rfl, rfl, rfl, rfl⟩

/-- Settles O40. -/
theorem ackResultRowsRespond : Obligations.AckResultRowsRespond := fun _ => ⟨rfl, rfl, rfl⟩

/-- Settles O52. -/
theorem commandsWithoutAProgrammingTrack : Obligations.CommandsWithoutAProgrammingTrack := by
  intro s trk hp
  have hT : s.track? .prog = none := by rw [State.track?_prog, hp]; rfl
  refine ⟨?_, ?_, ⟨Config.freePowerMode s.freeCount, ?_⟩, ?_, ?_, ?_⟩
  · simp only [exec, execSchedulePacket, hT]
  · simp only [exec, execSetPowerMode, hT]
  · simp only [exec, execGetPowerMode, hT, State.answerMode]
  · simp only [exec, execSetAckBaseline, hp]
  · simp only [exec, execSetAckPending, hp]
  · simp only [exec, execGetAck, hp, State.respond, ackCode]

/-! ### The rows of the tables -/

/-- Settles O18, from the wave rows whose next state is a wave state. -/
theorem settledWaveRowsFollowTheTables : Obligations.SettledWaveRowsFollowTheTables :=
  fun _ _ _ hT =>
    ⟨State.waveRow_settled (w := .mid1) (by decide) hT, State.waveRow_settled (w := .high0) (by decide) hT,
      State.waveRow_settled (w := .mid0) (by decide) hT, State.waveRow_settled (w := .low0) (by decide) hT⟩

/-- A wave row whose next state is `PENDING` asserts its level and resolves the next bit (R82 to R84). -/
theorem State.waveRow_pending {s : State} {w : Wave} {t : TrackSel} {T U : Track} (hw : nextWave w = .pending)
    (hT : s.track? t = some T) (hU : Track.advance s.par { T with state := .pending } = .ok U) :
    s.waveRow w t = .next ((s.setSignal t (levelOf w)).setTrack t U) := by
  simp only [State.waveRow, hT, hw, Track.resolve, if_true, hU]

/-- An operation on a track that has just been written. -/
theorem State.onTrack_setTrack {s : State} {t : TrackSel} {f : Track → Except Fault Track} {T X U : Track}
    (hT : s.track? t = some T) (hU : f X = .ok U) : (s.setTrack t X).onTrack t f = .next (s.setTrack t U) := by
  have written := s.track?_setTrack t X (by rw [hT]; rfl)
  rw [State.onTrack_some _ t f X written, hU]
  exact congrArg _ (s.setTrack_setTrack t X U)

/-- Settles O19: inside the buffer the encoder step completes, and both rows run it. -/
theorem pendingWaveRowsResolveTheNextBit : Obligations.PendingWaveRowsResolveTheNextBit := by
  intro s t T hT hc
  obtain ⟨U, hU⟩ := Track.advance_completes s.par { T with state := .pending } hc
  have advanced :
      Track.advance (s.setTrack t { T with state := .pending }).par { T with state := .pending } = .ok U := by
    rw [State.setTrack_par, hU]
  exact ⟨U, State.onTrack_setTrack hT advanced, State.waveRow_pending (w := .start) rfl hT hU,
    State.waveRow_pending (w := .pending) rfl hT hU⟩

theorem State.levelRow_some {s : State} {t : TrackSel} {T : Track} (l : Level) (hT : s.track? t = some T) :
    s.levelRow l t = s.setSignal t l := by
  simp only [State.levelRow, hT]

/-- Settles O22: a level row on a track that exists is `setSignal`. -/
theorem levelRowsAssertTheirLevel : Obligations.LevelRowsAssertTheirLevel := by
  intro s
  have prog (h : s.prog.isSome) (l : Level) : s.levelRow l .prog = s.setSignal .prog l := by
    obtain ⟨p, hp⟩ := Option.isSome_iff_exists.mp h
    exact State.levelRow_some l (T := p.track) (by rw [State.track?_prog, hp]; rfl)
  exact ⟨rfl, rfl, fun h => congrArg _ (prog h .low), fun h => congrArg _ (prog h .high)⟩

/-- Settles O23: the mask selects the bit, and a bit gives the track its wave state. -/
theorem maskRowsProduceTheirBit : Obligations.MaskRowsProduceTheirBit := by
  intro s t T k hT hc
  rw [exec_maskInstr, State.maskRow, State.onTrack_some s t _ T hT, Track.resolveBit_inside _ T k hc]
  simp only [Track.giveBit, decide_eq_true_eq]

/-- Loading a filler of three bytes into a canonical buffer: those bytes, the registers of R121, and the cells behind
them as they were. -/
theorem Track.loadFiller_spec (F : List Byte) (T : Track) (hF : F.length = 3) (hm : T.transmitBuffer.wf = true) :
    ∃ m : Memory, T.loadFiller F =
        { T with transmitBuffer := m, transmitLength := 3, transmitRepeats := 0,
                 sentResetsSincePacket :=
                   if T.sentResetsSincePacket.toNat < 250 then T.sentResetsSincePacket + 1
                   else T.sentResetsSincePacket } ∧
      m.bytes 3 = F ∧ (∀ a, 3 ≤ a → m.read a = T.transmitBuffer.read a) := by
  refine ⟨T.transmitBuffer.writeBytes 0 F, rfl, ?_, fun a ha => ?_⟩
  · rw [← hF]
    exact Memory.bytes_writeBytes _ F hm
  · exact Memory.read_writeBytes_after _ 0 a F (by omega)

/-- Settles O27: either row loads its parameter, a packet of three bytes, into its track. -/
theorem fillerRowsLoadTheirPacket : Obligations.FillerRowsLoadTheirPacket := by
  intro s i t F T hi hT hm
  have hF : F.length = 3 := by
    rcases hi with ⟨-, -, rfl⟩ | ⟨-, -, rfl⟩
    · exact fillerBytes_length s.par true
    · exact fillerBytes_length s.par false
  have e : exec i s = .next (s.setTrack t (T.loadFiller F)) := by
    rcases hi with ⟨rfl, rfl, rfl⟩ | ⟨rfl, rfl, rfl⟩ <;>
      exact s.onTrack_some _ (fun T => .ok (T.loadFiller _)) T hT
  obtain ⟨m, loaded, bytes, rest⟩ := T.loadFiller_spec F hF hm
  exact ⟨m, by rw [e, loaded], bytes, rest⟩

/-! ### The levels of a transmission -/

/-- From `T` the encoder resolves the bits `bs`, one by each call of `advance`, and stands at `V` (R124). The wave state of
neither track counts: `advance` overwrites it without reading it. -/
inductive Track.Sends (p : Params) : Track → List Bool → Track → Prop
  | nothing (T : Track) (w : Wave) : Track.Sends p T [] { T with state := w }
  | bit {T U V : Track} {b : Bool} {bs : List Bool} (h : T.advance p = .ok (U.giveBit b))
      (rest : Track.Sends p U bs V) : Track.Sends p T (b :: bs) V

theorem bitOf_giveBit (T : Track) (b : Bool) : bitOf (T.giveBit b).state = b := by
  cases b <;> rfl

/-- The bits sent are those the calls of `advance` resolve. -/
theorem Track.Sends.advanceBits {p : Params} {T V : Track} {bs : List Bool} (h : T.Sends p bs V) (v : Wave) :
    ∃ w, Machine.advanceBits p bs.length { T with state := v } = .ok (bs, { V with state := w }) := by
  induction h generalizing v with
  | nothing T w => exact ⟨v, rfl⟩
  | @bit T U V b bs h _ ih =>
    obtain ⟨w, hw⟩ := ih (if b then .mid1 else .high0)
    have first : Track.advance p { T with state := v } = .ok (U.giveBit b) := h
    have rest : Machine.advanceBits p bs.length (U.giveBit b) = .ok (bs, { V with state := w }) := hw
    refine ⟨w, ?_⟩
    simp only [List.length_cons, Machine.advanceBits, first, rest, bitOf_giveBit]

theorem tickLevels_succ {p : Params} {n : Nat} {T U V : Track} {l : Level} {ls : List Level}
    (h : T.tickOnce p = .ok (l, U)) (rest : tickLevels p n U = .ok (ls, V)) :
    tickLevels p (n + 1) T = .ok (l :: ls, V) := by
  simp only [tickLevels, h, rest]

/-- A tick at `START` asserts `HIGH` and resolves the next bit (R84). -/
theorem Track.tickOnce_start {p : Params} {T U : Track} (h : T.advance p = .ok U) :
    Track.tickOnce p { T with state := .start } = .ok (.high, U) := by
  have resolved : Track.resolve p (Track.step { T with state := .start }) = .ok U := (if_pos rfl).trans h
  simp only [Track.tickOnce, resolved, levelOf]

/-- A tick whose next state is a wave state asserts its level and moves the state (R82, R83). -/
theorem Track.tickOnce_settled (p : Params) (T : Track) {w : Wave} (h : nextWave w ≠ .pending) :
    Track.tickOnce p { T with state := w } = .ok (levelOf w, { T with state := nextWave w }) := by
  have resolved : Track.resolve p (Track.step { T with state := w }) = .ok { T with state := nextWave w } := if_neg h
  simp only [Track.tickOnce, resolved]

/-- The levels of the bits sent: each bit from `START` to `START`, a '1' in two ticks and a '0' in four (R86). -/
theorem Track.Sends.tickLevels {p : Params} {T V : Track} {bs : List Bool} (h : T.Sends p bs V) :
    Machine.tickLevels p (bs.flatMap bitLevels).length { T with state := .start } =
      .ok (bs.flatMap bitLevels, { V with state := .start }) := by
  induction h with
  | nothing T w => rfl
  | @bit T U V b bs h _ ih =>
    have start := Track.tickOnce_start h
    cases b with
    | true =>
      have low := U.tickOnce_settled p (w := .mid1) (by decide)
      exact tickLevels_succ start (tickLevels_succ low ih)
    | false =>
      have high := U.tickOnce_settled p (w := .high0) (by decide)
      have low := U.tickOnce_settled p (w := .mid0) (by decide)
      have last := U.tickOnce_settled p (w := .low0) (by decide)
      exact tickLevels_succ start (tickLevels_succ high (tickLevels_succ low (tickLevels_succ last ih)))

/-- The packet boundary leaves the wave state as it is. -/
theorem Track.packetBoundary_withState (p : Params) (T : Track) (w : Wave) :
    Track.packetBoundary p { T with state := w } = { T.packetBoundary p with state := w } := by
  unfold Track.packetBoundary Track.choosePacket
  split_ifs <;> rfl

/-- The byte cursor moves on inside the packet, and over the boundary at its end (R117, R118). -/
theorem Track.nextByte_inside (p : Params) (T : Track) (h : (T.bytesSent + 1).toNat < T.transmitLength.toNat) :
    T.nextByte p = { T with bitsSent := 0, bytesSent := T.bytesSent + 1 } :=
  if_neg fun he => absurd h (Nat.not_lt.mpr (of_decide_eq_true he))

theorem Track.nextByte_end (p : Params) (T : Track) (h : T.transmitLength.toNat ≤ (T.bytesSent + 1).toNat) :
    T.nextByte p = Track.packetBoundary p { T with bitsSent := 0, bytesSent := T.bytesSent + 1 } :=
  if_pos (decide_eq_true h)

/-- A bit given before the byte cursor moves may as well be given after. -/
theorem Track.nextByte_giveBit (p : Params) (T : Track) (b : Bool) :
    (T.giveBit b).nextByte p = (T.nextByte p).giveBit b := by
  by_cases h : T.transmitLength.toNat ≤ (T.bytesSent + 1).toNat
  · rw [T.nextByte_end p h, (T.giveBit b).nextByte_end p h]
    exact Track.packetBoundary_withState p { T with bitsSent := 0, bytesSent := T.bytesSent + 1 } _
  · rw [T.nextByte_inside p (by omega), (T.giveBit b).nextByte_inside p (Nat.lt_of_not_le h)]
    rfl

/-- Bit `k` of a byte on the wire: the framing '0', then data bit `8 - k` (R87, R89). -/
def wireBit (b : Byte) (k : Fin 9) : Bool := decide (k ≠ 0 ∧ b.getLsbD (8 - k.val) = true)

/-- A byte on the wire is its nine bits in order (R89). -/
theorem ofFn_wireBit (b : Byte) : List.ofFn (wireBit b) = false :: byteBits b := by
  simp [List.ofFn_succ, wireBit, byteBits]

/-- A bit inside a byte: the bit cursor moves on (R116). -/
theorem Track.advance_insideByte {p : Params} {T : Track} (hp : T.remainingPreambles = 0)
    (hc : T.bytesSent.toNat ≤ p.maxPacketSize) (h : T.bitsSent.val + 1 < 9) :
    T.advance p = .ok (Track.giveBit { T with bitsSent := ⟨T.bitsSent.val + 1, h⟩ }
      (wireBit (T.transmitBuffer.read T.bytesSent.toNat) T.bitsSent)) :=
  (T.advance_data p hp hc).trans (congrArg _ (dif_pos h))

/-- The last bit of a byte: the byte cursor moves on (R117). -/
theorem Track.advance_endOfByte {p : Params} {T : Track} (hp : T.remainingPreambles = 0)
    (hc : T.bytesSent.toNat ≤ p.maxPacketSize) (h : ¬ T.bitsSent.val + 1 < 9) :
    T.advance p = .ok ((T.nextByte p).giveBit (wireBit (T.transmitBuffer.read T.bytesSent.toNat) T.bitsSent)) :=
  (T.advance_data p hp hc).trans (congrArg _ ((dif_neg h).trans (T.nextByte_giveBit p _)))

theorem drop_ofFn_wireBit (b : Byte) (k : Fin 9) :
    (List.ofFn (wireBit b)).drop k.val = wireBit b k :: (List.ofFn (wireBit b)).drop (k.val + 1) := by
  rw [List.drop_eq_getElem_cons (by rw [List.length_ofFn]; exact k.isLt), List.getElem_ofFn]

/-- The bits of a byte from the bit cursor on, before whatever the next byte begins. -/
theorem Track.sends_restOfByte {p : Params} {bs : List Bool} {V : Track} (n : Nat) (T : Track)
    (hn : T.bitsSent.val + n = 8) (hp : T.remainingPreambles = 0) (hc : T.bytesSent.toNat ≤ p.maxPacketSize)
    (rest : (T.nextByte p).Sends p bs V) :
    T.Sends p ((List.ofFn (wireBit (T.transmitBuffer.read T.bytesSent.toNat))).drop T.bitsSent.val ++ bs) V := by
  rw [drop_ofFn_wireBit, List.cons_append]
  induction n generalizing T with
  | zero =>
    rw [List.drop_eq_nil_of_le (by rw [List.length_ofFn]; omega)]
    exact .bit (Track.advance_endOfByte hp hc (by omega)) rest
  | succ n ih =>
    have h : T.bitsSent.val + 1 < 9 := by omega
    have next := ih { T with bitsSent := ⟨T.bitsSent.val + 1, h⟩ }
      (by show T.bitsSent.val + 1 + n = 8; omega) hp hc rest
    rw [← List.cons_append, ← drop_ofFn_wireBit] at next
    exact .bit (Track.advance_insideByte hp hc h) next

/-- A byte behind its framing bit (R89). -/
theorem Track.sends_byte {p : Params} {T V : Track} {bs : List Bool} (hb : T.bitsSent = 0)
    (hp : T.remainingPreambles = 0) (hc : T.bytesSent.toNat ≤ p.maxPacketSize) (rest : (T.nextByte p).Sends p bs V) :
    T.Sends p (false :: byteBits (T.transmitBuffer.read T.bytesSent.toNat) ++ bs) V := by
  have h := Track.sends_restOfByte 8 T (by rw [hb]; rfl) hp hc rest
  rwa [hb, ofFn_wireBit] at h

/-- The preamble: a '1' for each bit that remains of it (R116). -/
theorem Track.sends_preamble {p : Params} {bs : List Bool} {V : Track} (q : Nat) (T : Track)
    (hq : T.remainingPreambles.toNat = q) (rest : Track.Sends p { T with remainingPreambles := 0 } bs V) :
    T.Sends p (List.replicate q true ++ bs) V := by
  induction q generalizing T with
  | zero =>
    have ended : T.remainingPreambles = 0 := BitVec.eq_of_toNat_eq hq
    rw [← ended] at rest
    exact rest
  | succ q ih =>
    have left : T.remainingPreambles ≠ 0 := fun h => by rw [h] at hq; cases hq
    have fewer := toNat_pred T.remainingPreambles left
    exact .bit (U := { T with remainingPreambles := T.remainingPreambles - 1 }) (T.advance_preamble p left)
      (ih _ (by show (T.remainingPreambles - 1).toNat = q; omega) rest)

/-- The bytes from the byte cursor to the end of the packet, and the packet boundary (R117, R118). -/
theorem Track.sends_bytes {p : Params} (n : Nat) (T : Track) (hn : T.bytesSent.toNat + n + 1 = T.transmitLength.toNat)
    (hl : T.transmitLength.toNat ≤ p.maxPacketSize + 1) (hb : T.bitsSent = 0) (hp : T.remainingPreambles = 0) :
    T.Sends p (((List.range' T.bytesSent.toNat (n + 1)).map T.transmitBuffer.read).flatMap fun b => false :: byteBits b)
      (Track.packetBoundary p { T with bitsSent := 0, bytesSent := T.transmitLength }) := by
  have len := T.transmitLength.isLt
  have next : (T.bytesSent + 1).toNat = T.bytesSent.toNat + 1 := toNat_succ _ (by omega)
  rw [List.range'_succ, List.map_cons, List.flatMap_cons]
  refine Track.sends_byte hb hp (by omega) ?_
  cases n with
  | zero =>
    have last : T.bytesSent + 1 = T.transmitLength := BitVec.eq_of_toNat_eq (by omega)
    rw [T.nextByte_end p (by omega), last]
    exact .nothing _ _
  | succ n =>
    rw [T.nextByte_inside p (by omega), ← next]
    exact Track.sends_bytes n _ (by show (T.bytesSent + 1).toNat + n + 1 = T.transmitLength.toNat; omega) hl rfl hp

/-- R124: a track at the start of its packet or before its preamble sends the packet on the wire, and the last of its bits
runs the packet boundary. -/
theorem Track.sends_packet {p : Params} {T : Track} (h1 : 1 ≤ T.transmitLength.toNat)
    (hl : T.transmitLength.toNat ≤ p.maxPacketSize + 1) (hy : T.bytesSent = 0) (hb : T.bitsSent = 0) :
    T.Sends p (wireBits T.remainingPreambles.toNat (T.transmitBuffer.bytes T.transmitLength.toNat))
      (Track.packetBoundary p { T with remainingPreambles := 0, bitsSent := 0, bytesSent := T.transmitLength }) := by
  refine Track.sends_preamble _ T rfl ?_
  have cursor : BitVec.toNat T.bytesSent = 0 := congrArg BitVec.toNat hy
  have bytes := Track.sends_bytes (p := p) (T.transmitLength.toNat - 1) { T with remainingPreambles := 0 }
    (by show T.bytesSent.toNat + (T.transmitLength.toNat - 1) + 1 = T.transmitLength.toNat; omega) hl hb rfl
  rwa [Nat.sub_add_cancel h1, cursor, ← List.range_eq_range'] at bytes

/-! ### The number of ticks -/

/-- A '1' takes two ticks and a '0' four (R86). -/
theorem length_bitLevels (b : Bool) : (bitLevels b).length = if b then 2 else 4 := by
  cases b <;> rfl

theorem length_flatMap_bitLevels (bs : List Bool) :
    (bs.flatMap bitLevels).length + 2 * bs.count true = 4 * bs.length := by
  induction bs with
  | nil => rfl
  | cons b bs ih =>
    rw [List.flatMap_cons, List.length_append, length_bitLevels, List.length_cons]
    cases b
    · rw [List.count_cons_of_ne (by decide), if_neg (by decide)]
      omega
    · rw [List.count_cons_self, if_pos rfl]
      omega

/-- Nine bits to a byte (R89). -/
theorem length_wireBits (q : Nat) (bs : List Byte) : (wireBits q bs).length = q + 9 * bs.length := by
  simp only [wireBits, byteBits, List.length_append, List.length_replicate, List.length_flatMap, List.length_cons,
    List.length_nil, List.map_const', List.sum_replicate, smul_eq_mul]
  omega

/-- The framing bits are no '1' (R89). -/
theorem count_wireBits (q : Nat) (bs : List Byte) : (wireBits q bs).count true = q + ones bs := by
  have framing (b : Byte) : (false :: byteBits b).count true = (byteBits b).count true :=
    List.count_cons_of_ne (by decide)
  simp only [wireBits, ones, List.count_append, List.count_replicate_self, List.count_flatMap,
    Function.comp_def, framing]

theorem ones_le (bs : List Byte) : ones bs ≤ 8 * bs.length := by
  have bits : (bs.flatMap byteBits).length = 8 * bs.length := by
    simp only [byteBits, List.length_flatMap, List.length_cons, List.length_nil, List.map_const', List.sum_replicate,
      smul_eq_mul]
    omega
  exact List.count_le_length.trans_eq bits

theorem length_wireLevels (q : Nat) (bs : List Byte) :
    (wireLevels q bs).length = 2 * q + 36 * bs.length - 2 * ones bs := by
  have levels := length_flatMap_bitLevels (wireBits q bs)
  rw [length_wireBits, count_wireBits] at levels
  unfold wireLevels
  omega

theorem Memory.length_bytes (m : Memory) (n : Nat) : (m.bytes n).length = n := by
  simp only [Memory.bytes, List.length_map, List.length_range]

/-- Settles O29: the packet sent on the wire, each bit in its shape. -/
theorem transmissionLevelsAndTickCount : Obligations.TransmissionLevelsAndTickCount := by
  intro p T h1 hl hs hy hb B q
  have len : B.length = T.transmitLength.toNat := Memory.length_bytes _ _
  have few := ones_le B
  refine ⟨by omega, ?_⟩
  have levels := (Track.sends_packet h1 hl hy hb).tickLevels
  rw [← Track.packetBoundary_withState, ← hs] at levels
  rw [← len, ← length_wireLevels]
  exact levels

end Sys2Proof.Machine
end

section
/-! PROOFS of the family 40_encoder.md: the level lookup and the table transition, one call of the encoder, the packet
boundary, the packet the encoder puts on the wire, and which packet a track transmits from boundary to boundary and from
tick to tick. -/

namespace Sys2Proof.Machine

/-! ### The internal steps of a track that exists -/

theorem exec_level {s : State} {t : TrackSel} {T : Track} (hT : s.track? t = some T) :
    exec (.level t) s = .next (s.respond (.level (levelOf T.state))) := by
  simp only [exec, execLevel, hT]

theorem exec_step {s : State} {t : TrackSel} {T : Track} (hT : s.track? t = some T) :
    exec (.step t) s = .next (s.setTrack t T.step) :=
  s.onTrack_some t (fun T => .ok T.step) T hT

theorem exec_advance {s : State} {t : TrackSel} {T U : Track} (hT : s.track? t = some T)
    (hU : T.advance s.par = .ok U) : exec (.advance t) s = .next (s.setTrack t U) :=
  (s.onTrack_some t (Track.advance s.par) T hT).trans (by rw [hU])

theorem exec_packetBoundary {s : State} {t : TrackSel} {T : Track} (hT : s.track? t = some T) :
    exec (.packetBoundary t) s = .next (s.setTrack t (T.packetBoundary s.par)) :=
  s.onTrack_some t (fun T => .ok (T.packetBoundary s.par)) T hT

/-- The packet boundary of a track that has just been written. -/
theorem exec_packetBoundary_setTrack {s : State} {t : TrackSel} {T : Track} (hT : s.track? t = some T) (X : Track) :
    exec (.packetBoundary t) (s.setTrack t X) = .next (s.setTrack t (X.packetBoundary s.par)) := by
  have written := s.track?_setTrack t X (by rw [hT]; rfl)
  rw [exec_packetBoundary written, s.setTrack_setTrack, s.setTrack_par]

/-- Settles O21: the rows of the two tables, state by state. -/
theorem lookupAndTransitionOfATrack : Obligations.LookupAndTransitionOfATrack := by
  intro s t T hT
  rw [exec_level hT, exec_step hT, Track.step]
  refine ⟨?_, ?_, ?_, ?_, fun h => ?_, fun h => ?_⟩
  · rintro (h | h) <;> rw [h] <;> rfl
  · rintro (h | h | h | h) <;> rw [h] <;> rfl
  · rintro (h | h) <;> rw [h] <;> rfl
  · rintro (h | h) <;> rw [h] <;> rfl
  · rw [h]; rfl
  · rw [h]; rfl

/-! ### One call of the encoder -/

/-- A bit of the byte on the wire gives the track its wave state (R87, R114, R115). -/
theorem Track.giveBit_wireBit (T : Track) (b : Byte) (k : Fin 9) :
    T.giveBit (wireBit b k) = { T with state := if k ≠ 0 ∧ b.getLsbD (8 - k.val) then .mid1 else .high0 } := by
  simp only [Track.giveBit, wireBit, decide_eq_true_eq]

/-- Settles O24: the preamble bit, and by the two cursors the three kinds of a bit of the packet. -/
theorem advanceFollowsItsAlgorithm : Obligations.AdvanceFollowsItsAlgorithm := by
  intro s t T hT bit
  have resolved (U : Track) :
      U.giveBit (wireBit (T.transmitBuffer.read T.bytesSent.toNat) T.bitsSent) = { U with state := bit } :=
    U.giveBit_wireBit _ _
  have succ (hc : T.bytesSent.toNat ≤ s.par.maxPacketSize) : (T.bytesSent + 1).toNat = T.bytesSent.toNat + 1 :=
    toNat_succ _ (by have := s.par.size.2; omega)
  have last (hp : T.remainingPreambles = 0) (hc : T.bytesSent.toNat ≤ s.par.maxPacketSize) (hb : T.bitsSent = 8) :
      exec (.advance t) s = .next (s.setTrack t { T.nextByte s.par with state := bit }) := by
    have e := T.advance_endOfByte hp hc (by rw [hb]; decide)
    rw [resolved] at e
    exact exec_advance hT e
  refine ⟨fun hp => ?_, fun hp hc k hk => ?_, fun hp hc hb hl => ?_, fun hp hc hb hl => ?_⟩
  · exact exec_advance hT (T.advance_preamble s.par hp)
  · have hlt : T.bitsSent.val + 1 < 9 := by omega
    have e := T.advance_insideByte hp hc hlt
    rw [resolved, ← (Fin.ext hk : k = ⟨T.bitsSent.val + 1, hlt⟩)] at e
    exact exec_advance hT e
  · rw [last hp hc hb, T.nextByte_inside s.par ((succ hc).trans_lt hl)]
  · rw [last hp hc hb, T.nextByte_end s.par (hl.trans_eq (succ hc).symm), ← Track.packetBoundary_withState,
      exec_packetBoundary_setTrack hT]

/-- Settles O28, from the packet sent on the wire: its length is `q + 9 L` bits. -/
theorem advanceSendsThePacketOnTheWire : Obligations.AdvanceSendsThePacketOnTheWire := by
  intro p T h1 hl hy hb
  obtain ⟨w, hw⟩ := (Track.sends_packet h1 hl hy hb).advanceBits T.state
  rw [length_wireBits, Memory.length_bytes, ← Track.packetBoundary_withState] at hw
  exact ⟨w, hw⟩

/-! ### The packet boundary, case by case -/

/-- Case (a), repeat (R119). -/
theorem Track.packetBoundary_of_repeats (p : Params) {T : Track} (hr : T.transmitRepeats ≠ 0) :
    T.packetBoundary p = { T with
      bytesSent := 0, remainingPreambles := T.requiredPreambles, transmitRepeats := T.transmitRepeats - 1 } :=
  if_pos hr

/-- Case (b), take the pending packet (R120). -/
theorem Track.packetBoundary_of_pending (p : Params) {T : Track} (hr : T.transmitRepeats = 0)
    (hp : T.packetPending = true) :
    T.packetBoundary p =
      Track.pendingCase p.maxPacketSize { T with bytesSent := 0, remainingPreambles := T.requiredPreambles } :=
  (if_neg (not_not.mpr hr)).trans (if_pos hp)

/-- Case (c), filler (R121). -/
theorem Track.packetBoundary_of_idle (p : Params) {T : Track} (hr : T.transmitRepeats = 0)
    (hp : T.packetPending = false) :
    T.packetBoundary p = Track.loadFiller (fillerBytes p T.isMainTrack)
      { T with bytesSent := 0, remainingPreambles := T.requiredPreambles } :=
  (if_neg (not_not.mpr hr)).trans (if_neg (Bool.eq_false_iff.mp hp))

/-- Settles O26, from the three cases; the buffers read as the copy and the filler load leave them. -/
theorem packetBoundaryChoosesByPriority : Obligations.PacketBoundaryChoosesByPriority := by
  intro s t T hT hm
  rw [exec_packetBoundary hT]
  refine ⟨fun hr => ?_, fun hr hp => ?_, fun hr hp => ?_⟩
  · rw [T.packetBoundary_of_repeats s.par hr]
  · rw [T.packetBoundary_of_pending s.par hr hp]
    exact ⟨_, rfl, fun i hi => Memory.read_copy _ _ _ i hm (Nat.lt_succ_of_le hi),
      fun i hi => Memory.read_copy_after _ _ _ i hi⟩
  · rw [T.packetBoundary_of_idle s.par hr hp]
    obtain ⟨m, loaded, bytes, rest⟩ := Track.loadFiller_spec (fillerBytes s.par T.isMainTrack)
      { T with bytesSent := 0, remainingPreambles := T.requiredPreambles } (fillerBytes_length _ _) hm
    exact ⟨m, by rw [loaded], bytes, rest⟩

/-! ### Which packet is transmitted, from boundary to boundary -/

/-- With no repeats left and nothing pending the boundary leaves the track on its filler (R121, R127). -/
theorem Track.packetBoundary_onlyFiller (p : Params) {T : Track} (hr : T.transmitRepeats = 0)
    (hp : T.packetPending = false) (hm : T.transmitBuffer.wf = true) : (T.packetBoundary p).OnlyFiller p := by
  rw [T.packetBoundary_of_idle p hr hp]
  have bytes := Memory.bytes_writeBytes T.transmitBuffer (fillerBytes p T.isMainTrack) hm
  rw [fillerBytes_length] at bytes
  exact ⟨rfl, bytes, rfl, hp⟩

/-- While repeats are left the boundaries leave the packet in the transmit buffer (R119). -/
theorem boundaries_packet (p : Params) (T : Track) (k : Nat) (hk : k ≤ T.transmitRepeats.toNat) :
    (boundaries p k T).transmitLength = T.transmitLength ∧
    (boundaries p k T).transmitBuffer = T.transmitBuffer := by
  induction k with
  | zero => exact ⟨rfl, rfl⟩
  | succ k ih =>
    obtain ⟨hr, -⟩ := boundaries_repeats p T k (by omega)
    have left : (boundaries p k T).transmitRepeats.toNat ≠ 0 := by omega
    rw [boundaries_succ, Track.packetBoundary_of_repeats p fun h => left (congrArg BitVec.toNat h)]
    exact ih (by omega)

/-- The registers of a track whose boundary has taken the pending packet (R120). -/
theorem Track.packetBoundary_takes (p : Params) {T : Track} (hr : T.transmitRepeats = 0)
    (hp : T.packetPending = true) :
    (T.packetBoundary p).transmitLength = T.pendingLength ∧
    (T.packetBoundary p).transmitBuffer = Memory.copy T.transmitBuffer T.pendingBuffer (p.maxPacketSize + 1) ∧
    (T.packetBoundary p).transmitRepeats = T.pendingRepeats ∧ (T.packetBoundary p).packetPending = false := by
  rw [T.packetBoundary_of_pending p hr hp]
  exact ⟨rfl, rfl, rfl, rfl⟩

/-- Settles O31: the boundary takes the pending packet, the next ones repeat it, and the one after the last repeat loads
the filler. -/
theorem packetIsSentRepeatsPlusOneTimes : Obligations.PacketIsSentRepeatsPlusOneTimes := by
  intro p T hr hp hm hl
  obtain ⟨length, buffer, repeats, free⟩ := Track.packetBoundary_takes p hr hp
  rw [← repeats]
  constructor
  · intro k hk
    obtain ⟨sameLength, sameBuffer⟩ := boundaries_packet p (T.packetBoundary p) k hk
    obtain ⟨fewer, -⟩ := boundaries_repeats p (T.packetBoundary p) k hk
    refine ⟨sameLength.trans length, ?_, fewer⟩
    rw [boundaries, sameBuffer, buffer]
    exact Memory.bytes_congr _ _ _ fun i hi => Memory.read_copy _ _ _ i hm (by omega)
  · obtain ⟨-, sameBuffer⟩ := boundaries_packet p (T.packetBoundary p) _ le_rfl
    obtain ⟨counted, sameSlot⟩ := boundaries_repeats p (T.packetBoundary p) _ le_rfl
    rw [boundaries, boundaries_succ]
    refine Track.packetBoundary_onlyFiller p (BitVec.eq_of_toNat_eq ?_) (sameSlot.trans free) ?_
    · exact counted.trans (Nat.sub_self _)
    · rw [sameBuffer, buffer]
      exact Memory.wf_copy _ _ _ hm

/-! ### The filler, from tick to tick -/

/-- The encoder keeps a track on its filler: inside the packet it moves cursors only, and the boundary at its end loads
the filler again (R127). -/
theorem Track.OnlyFiller.advance {p : Params} {T U : Track} (h : T.OnlyFiller p) (hm : T.transmitBuffer.wf = true)
    (e : T.advance p = .ok U) : U.OnlyFiller p := by
  rcases T.advance_cases p U e with ⟨-, rfl⟩ | ⟨-, -, b, rfl⟩
  · exact { h with }
  · rcases (T.giveBit b).moveCursor_cases p with ⟨k, -, e⟩ | ⟨-, -, e⟩ | ⟨-, -, e⟩ <;> rw [e]
    · exact { h with }
    · exact { h with }
    · exact Track.packetBoundary_onlyFiller p h.repeats h.free hm

theorem Track.OnlyFiller.step {p : Params} {T : Track} (h : T.OnlyFiller p) : T.step.OnlyFiller p := { h with }

theorem Track.OnlyFiller.resolve {p : Params} {T U : Track} (h : T.OnlyFiller p) (hm : T.transmitBuffer.wf = true)
    (e : T.resolve p = .ok U) : U.OnlyFiller p := by
  unfold Track.resolve at e
  split at e
  · exact h.advance hm e
  · cases e
    exact h

/-- The detector writes of the track at most its repeats, and those to 0 (R162). -/
theorem Prog.sampleTick_onlyFiller {par : Params} {q : Prog} (g : CfgRegs) (c : Nat) (us ms : Time)
    (h : q.track.OnlyFiller par) : (q.sampleTick g c us ms).track.OnlyFiller par := by
  rcases Prog.sampleTick_cases g c us ms q with ⟨-, e⟩ | ⟨-, -, e⟩ | ⟨-, -, -, e⟩ | ⟨-, -, -, -, e⟩ | ⟨-, -, -, -, e⟩ <;>
    rw [e]
  · exact h
  · exact h
  · exact h
  · exact { h with repeats := rfl }
  · exact h

theorem State.progTick_onlyFiller {s : State} {p q : Prog} (h : p.track.OnlyFiller s.par)
    (hm : p.track.transmitBuffer.wf = true) (e : s.progTick p = .ok q) : q.track.OnlyFiller s.par := by
  rcases s.progTick_cases p q e with ⟨-, U, hU, rfl⟩ | ⟨-, -, rfl⟩ | ⟨-, -, rfl⟩
  · exact h.step.advance hm hU
  · exact h.step
  · exact Prog.sampleTick_onlyFiller _ _ _ _ h.step

/-- What either form of the tick takes the tracks from: the main track from its own step, the programming side from steps
4 to 6, or as it was where those are omitted (R196, R197). -/
theorem execTick_tracks {i : Instr} {s t : State} (hi : i = .tick ∨ i = .tickMainOnly) (h : exec i s = .next t) :
    s.main.step.resolve s.par = .ok t.main ∧
    (t.prog = s.prog ∨ ∃ p q, s.prog = some p ∧ s.progTick p = .ok q ∧ t.prog = some q) := by
  rcases hi with rfl | rfl
  · refine ⟨(execTick_main h).1, ?_⟩
    cases hp : s.prog with
    | none => exact .inl (execTick_prog_none hp h)
    | some p =>
      obtain ⟨q, hq, e⟩ := execTick_prog hp h
      exact .inr ⟨p, q, rfl, hq, e⟩
  · obtain ⟨T, hT, rfl⟩ := s.tickMain_next t h
    exact ⟨hT, .inl rfl⟩

/-- Settles O30: the invariant keeps the transmit buffer canonical, and each way a tick takes a track keeps it on its
filler. -/
theorem fillerIsSentForEver : Obligations.FillerIsSentForEver := by
  intro i s t hi hs h k T U hT hU filler
  have canonical := (hs.track hT).transmitBuffer.1
  obtain ⟨main, prog⟩ := execTick_tracks hi h
  cases k with
  | main =>
    cases hT
    cases hU
    exact filler.step.resolve canonical main
  | prog =>
    rcases prog with same | ⟨p, q, hp, hq, ht⟩
    · rw [State.track?_prog, same, ← State.track?_prog, hT] at hU
      cases hU
      exact filler
    · rw [State.track?_prog, hp] at hT
      rw [State.track?_prog, ht] at hU
      cases hT
      cases hU
      exact State.progTick_onlyFiller filler canonical hq

end Sys2Proof.Machine
end

section
/-! PROOFS of the family 41_packet_scheduler.md: what `schedulePacket` does, case by case, what the stored bytes are,
the hold of the caller, and the tick in which the hold ends. -/

namespace Sys2Proof.Machine

/-! ### The cases of `schedulePacket` -/

/-- The size test comes first, whatever the track and its slot (R148). -/
theorem exec_schedulePacket_oversized {s : State} (trk : TrackSel)
    (ho : s.par.maxPacketSize < s.port.args.argCount.toNat) : exec (.schedulePacket trk) s = .next s := by
  have tooLong : s.oversized = true := decide_eq_true ho
  simp only [exec, execSchedulePacket, tooLong, if_true]
  split <;> rfl

/-- A payload that fits is held where the slot is occupied (R142). -/
theorem exec_schedulePacket_occupied {s : State} {trk : TrackSel} {T : Track} (hT : s.track? trk = some T)
    (hn : s.port.args.argCount.toNat ≤ s.par.maxPacketSize) (hp : T.packetPending = true) :
    exec (.schedulePacket trk) s = .next (s.holdFor trk) := by
  have fits : s.oversized = false := decide_eq_false (Nat.not_lt.mpr hn)
  simp only [exec, execSchedulePacket, hT, fits, hp, Bool.false_eq_true, if_false, if_true]

/-- A payload that fits is stored where the slot is free (R141). -/
theorem exec_schedulePacket_free {s : State} {trk : TrackSel} {T : Track} (hT : s.track? trk = some T)
    (hn : s.port.args.argCount.toNat ≤ s.par.maxPacketSize) (hp : T.packetPending = false) :
    exec (.schedulePacket trk) s =
      .next (s.setTrack trk (T.storePacket s.port.args.payload s.port.args.argRepeats)) := by
  have fits : s.oversized = false := decide_eq_false (Nat.not_lt.mpr hn)
  simp only [exec, execSchedulePacket, hT, fits, hp, Bool.false_eq_true, if_false]

/-- Settles O34, by the size test. -/
theorem oversizedPayloadIsRejected : Obligations.OversizedPayloadIsRejected :=
  fun _ trk => exec_schedulePacket_oversized trk

/-! ### The bytes of a stored packet -/

/-- The checksum may be taken from either end of the payload. -/
theorem xorAll_eq_foldr (bs : List Byte) : xorAll bs = bs.foldr (· ^^^ ·) 0 := List.foldl_eq_foldr

/-- A payload and its checksum cancel (R143). -/
theorem xorAll_append_checksum (bs : List Byte) : xorAll (bs ++ [xorAll bs]) = 0 := by
  have last : xorAll (bs ++ [xorAll bs]) = xorAll bs ^^^ xorAll bs := List.foldl_concat _ _ _ _
  exact last.trans BitVec.xor_self

/-- The length register of a stored packet counts the checksum (R141). -/
theorem PortArgs.ofNat_storedLength (a : PortArgs) : BitVec.ofNat 8 (a.payload.length + 1) = a.argCount + 1 := by
  rw [a.payload_length, BitVec.ofNat_add, BitVec.ofNat_toNat, BitVec.setWidth_eq, BitVec.ofNat_eq_ofNat]

/-- A payload count that passes the size test leaves room for the checksum in the length register. -/
theorem State.toNat_storedLength {s : State} (hn : s.port.args.argCount.toNat ≤ s.par.maxPacketSize) :
    (s.port.args.argCount + 1).toNat = s.port.args.argCount.toNat + 1 :=
  toNat_succ _ (by have := s.par.size.2; omega)

/-- The pending buffer of a track after `schedulePacket` has stored the packet of the port (R141). -/
def Track.storedBuffer (T : Track) (a : PortArgs) : Memory :=
  T.pendingBuffer.writeBytes 0 (a.payload ++ [xorAll a.payload])

/-- `storePacket`, register by register. -/
theorem Track.storePacket_eq (T : Track) (a : PortArgs) :
    T.storePacket a.payload a.argRepeats =
      { T with pendingBuffer := T.storedBuffer a, pendingLength := a.argCount + 1, pendingRepeats := a.argRepeats,
               packetPending := true, sentResetsSincePacket := 0 } := by
  rw [← a.ofNat_storedLength]
  rfl

/-- A packet of the port is its payload and one checksum byte (R143). -/
theorem PortArgs.length_stored (a : PortArgs) :
    (a.payload ++ [xorAll a.payload]).length = a.argCount.toNat + 1 := by
  rw [List.length_append, a.payload_length, List.length_singleton]

/-- The cells `0 .. count` hold the payload and behind it the checksum (R141, R143). -/
theorem Track.bytes_storedBuffer (T : Track) (a : PortArgs) (h : T.pendingBuffer.wf = true) :
    (T.storedBuffer a).bytes (a.argCount.toNat + 1) = a.payload ++ [xorAll a.payload] := by
  have stored := Memory.bytes_writeBytes T.pendingBuffer (a.payload ++ [xorAll a.payload]) h
  rwa [a.length_stored] at stored

/-- The stored bytes, cell by cell. -/
theorem Track.read_storedBuffer (T : Track) (a : PortArgs) (h : T.pendingBuffer.wf = true) (i : Nat)
    (hi : i < (a.payload ++ [xorAll a.payload]).length) :
    (T.storedBuffer a).read i = (a.payload ++ [xorAll a.payload])[i] := by
  have stored := Memory.read_writeBytes T.pendingBuffer 0 i _ h hi
  rwa [Nat.zero_add] at stored

/-- Settles O33: the packet is stored where the slot is free, its cells are the payload and the checksum, and the cells
behind them are not written. -/
theorem scheduleStoresPacketAndChecksum : Obligations.ScheduleStoresPacketAndChecksum := by
  intro s trk T hT hn hp hm
  have length := s.port.args.length_stored
  refine ⟨T.storedBuffer s.port.args, ?_, State.toNat_storedLength hn, fun i hi => ?_, ?_, fun i hi => ?_⟩
  · rw [exec_schedulePacket_free hT hn hp, Track.storePacket_eq]
  · have inside : i < s.port.args.payload.length := hi.trans_eq s.port.args.payload_length.symm
    rw [T.read_storedBuffer _ hm i (by omega), List.getElem_append_left inside]
    simp only [PortArgs.payload, List.getElem_map, List.getElem_range]
  · rw [T.read_storedBuffer _ hm _ (by omega), List.getElem_concat_length s.port.args.payload_length.symm]
    exact xorAll_eq_foldr _
  · exact Memory.read_writeBytes_after _ _ _ _ (by omega)

/-- Settles O36: the cells are the payload and its checksum, and these cancel. -/
theorem packetXorIsZero : Obligations.PacketXorIsZero := by
  intro s trk T hT hn hp hm
  refine ⟨_, _, exec_schedulePacket_free hT hn hp, s.track?_setTrack trk _ (by rw [hT]; rfl), rfl, ?_, ?_⟩
  · rw [Track.storePacket_eq]
    exact State.toNat_storedLength hn
  · have cancel := xorAll_append_checksum s.port.args.payload
    rw [← T.bytes_storedBuffer _ hm, xorAll_eq_foldr] at cancel
    exact cancel

/-! ### The hold -/

/-- Settles O35: the operation is held for its slot, `BUSY` shows it, and so the turn does not retire it. -/
theorem occupiedSlotHoldsTheCaller : Obligations.OccupiedSlotHoldsTheCaller := by
  intro s trk T hT hp
  constructor
  · intro hn t
    exact ⟨exec_schedulePacket_occupied hT hn hp, (t.busy_of_waiting trk T rfl hT).trans hp⟩
  · intro d rest a as hturns hctl hcmd hn t
    have begun : ((s.beginTurn d rest).latchCommand a).track? trk = some T := hT
    have held : exec (.schedulePacket trk) ((s.beginTurn d rest).latchCommand a) = .next t :=
      exec_schedulePacket_occupied begun hn hp
    have busy : t.busy = true := (t.busy_of_waiting trk T rfl hT).trans hp
    refine ⟨?_, busy, fun d' rest' => step_of_strobe t d' rest'⟩
    rw [step_of_control s d rest a as hturns hctl, hcmd, held, retireResult, State.retire_command, if_pos busy]

/-! ### The tick that frees the slot -/

/-- The boundary frees an occupied slot exactly where no repeats are left (R119, R120). -/
theorem Track.packetBoundary_frees_iff (p : Params) {T : Track} (hp : T.packetPending = true) :
    (T.packetBoundary p).packetPending = false ↔ T.transmitRepeats = 0 := by
  by_cases hr : T.transmitRepeats = 0
  · obtain ⟨-, -, -, free⟩ := Track.packetBoundary_takes p hr hp
    exact iff_of_true free hr
  · rw [T.packetBoundary_of_repeats p hr]
    exact iff_of_false (Bool.ne_false_iff.mpr hp) hr

/-- The cursor frees an occupied slot exactly where it passes such a boundary (R117, R118). -/
theorem Track.moveCursor_frees_iff (p : Params) {T : Track} (hp : T.packetPending = true)
    (hc : T.bytesSent.toNat ≤ p.maxPacketSize) :
    (T.moveCursor p).packetPending = false ↔
      T.bitsSent = 8 ∧ T.transmitLength.toNat ≤ T.bytesSent.toNat + 1 ∧ T.transmitRepeats = 0 := by
  have kept : T.packetPending ≠ false := Bool.ne_false_iff.mpr hp
  have succ : (T.bytesSent + 1).toNat = T.bytesSent.toNat + 1 := toNat_succ _ (by have := p.size.2; omega)
  rcases T.moveCursor_cases p with ⟨k, hk, e⟩ | ⟨-, hl, e⟩ | ⟨h8, hl, e⟩ <;> rw [e]
  · exact iff_of_false kept fun ⟨h8, _⟩ => absurd k.isLt (by rw [hk, h8]; decide)
  · exact iff_of_false kept fun ⟨_, hl', _⟩ => by omega
  · have boundary :=
      Track.packetBoundary_frees_iff (T := { T with bitsSent := 0, bytesSent := T.bytesSent + 1 }) p hp
    exact boundary.trans ⟨fun hr => ⟨h8, by omega, hr⟩, fun ⟨_, _, hr⟩ => hr⟩

/-- Resolving a bit frees an occupied slot exactly where it ends the last transmission of its packet (R116). -/
theorem Track.advance_frees_iff {p : Params} {T U : Track} (hp : T.packetPending = true) (h : T.advance p = .ok U) :
    U.packetPending = false ↔ T.endsPacket ∧ T.transmitRepeats = 0 := by
  rcases T.advance_cases p U h with ⟨hq, rfl⟩ | ⟨hq, hc, b, rfl⟩
  · exact iff_of_false (Bool.ne_false_iff.mpr hp) fun ⟨⟨hq', _⟩, _⟩ => hq hq'
  · exact (Track.moveCursor_frees_iff (T := T.giveBit b) p hp hc).trans
      ⟨fun ⟨h8, hl, hr⟩ => ⟨⟨hq, h8, hl⟩, hr⟩, fun ⟨⟨_, h8, hl⟩, hr⟩ => ⟨h8, hl, hr⟩⟩

/-- A track's own part of a tick frees its occupied slot exactly where it resolves the last bit of the last transmission
(R84, R118). -/
theorem Track.resolve_frees_iff {p : Params} {T U : Track} (hp : T.packetPending = true) (hn : T.state ≠ .pending)
    (h : T.step.resolve p = .ok U) :
    U.packetPending = false ↔ T.state = .start ∧ T.endsPacket ∧ T.transmitRepeats = 0 := by
  unfold Track.resolve at h
  split at h
  · rename_i hw
    rw [and_iff_right (nextWave_eq_pending hn hw)]
    exact Track.advance_frees_iff (T := T.step) hp h
  · rename_i hw
    cases h
    exact iff_of_false (Bool.ne_false_iff.mpr hp) fun ⟨hs, _⟩ => hw (by rw [Track.step, hs]; rfl)

/-- The slot of the programming track after a tick is what the track's own part makes of it: the detector leaves it. -/
theorem State.progTick_slot {s : State} {p q : Prog} (h : s.progTick p = .ok q) :
    ∃ V, p.track.step.resolve s.par = .ok V ∧ q.track.packetPending = V.packetPending := by
  rcases s.progTick_cases p q h with ⟨hw, V, hV, rfl⟩ | ⟨hw, -, rfl⟩ | ⟨hw, -, rfl⟩
  · exact ⟨V, (if_pos hw).trans hV, rfl⟩
  · exact ⟨_, if_neg hw, rfl⟩
  · refine ⟨_, if_neg hw, ?_⟩
    obtain ⟨⟨r, hr⟩, -⟩ := Prog.sampleTick_frame s.cfg s.drawCurrent s.env.nowUs s.env.nowMs
      { p with track := p.track.step }
    rw [State.detect, hr]

/-- The slot of each track a tick moves is after it what the track's own part of the tick makes of it (R196, R197). -/
theorem execTick_slot {i : Instr} {s t : State} {k : TrackSel} {T : Track}
    (hi : i = .tick ∨ (i = .tickMainOnly ∧ k = .main)) (hT : s.track? k = some T) (h : exec i s = .next t) :
    ∃ U V, t.track? k = some U ∧ T.step.resolve s.par = .ok V ∧ U.packetPending = V.packetPending := by
  cases k with
  | main =>
    cases hT
    obtain ⟨main, -⟩ := execTick_tracks (hi.imp_right And.left) h
    exact ⟨_, _, rfl, main, rfl⟩
  | prog =>
    rcases hi with rfl | ⟨-, hk⟩
    · obtain ⟨p, hp, rfl⟩ := Option.map_eq_some_iff.mp hT
      obtain ⟨q, hq, ht⟩ := execTick_prog hp h
      obtain ⟨V, hV, slot⟩ := State.progTick_slot hq
      exact ⟨q.track, V, by rw [State.track?_prog, ht]; rfl, hV, slot⟩
    · cases hk

/-- Neither form of the tick writes the port (R220). -/
theorem execTick_port {i : Instr} {s t : State} (hi : i = .tick ∨ i = .tickMainOnly) (h : exec i s = .next t) :
    t.port = s.port := by
  have mainOnly (e : s.tickMain = .next t) : t.port = s.port := by
    obtain ⟨T, -, rfl⟩ := s.tickMain_next t e
    rfl
  rcases hi with rfl | rfl
  · cases hp : s.prog with
    | none => exact mainOnly ((execTick_of_none hp).symm.trans h)
    | some p =>
      rw [execTick_of_some hp] at h
      obtain ⟨T, q, -, -, rfl⟩ := s.tickBoth_next t p h
      rfl
  · exact mainOnly h

/-- Settles O55: the port still notes the slot after the tick, so `BUSY` is what the tick makes of the slot. -/
theorem busyFallsInTheTickThatFreesTheSlot : Obligations.BusyFallsInTheTickThatFreesTheSlot := by
  intro i s t k T hi hw hT hp hn h
  obtain ⟨U, V, hU, hV, slot⟩ := execTick_slot hi hT h
  have noted : t.port.waiting = some k := by rw [execTick_port (hi.imp_right And.left) h, hw]
  refine ⟨(s.busy_of_waiting k T hw hT).trans hp, ?_⟩
  rw [t.busy_of_waiting k U noted hU, slot]
  exact Track.resolve_frees_iff hp hn hV

end Sys2Proof.Machine
end

section
/-! PROOFS of the family 42_ack_detector.md: the three operations of the control context on the session, the rows of the
detector tick, and the tick of the timer in which an expired session ends. -/

namespace Sys2Proof.Machine

/-! ### The operations on the session -/

/-- Writing the session of a programming track that exists. -/
theorem State.setSession_of_some {s : State} {p : Prog} (hp : s.prog = some p) (S : AckSession) :
    s.setSession S = { s with prog := some { p with session := S } } := by
  rw [State.setSession, hp, Option.map_some]

theorem exec_setAckBaseline {s : State} {p : Prog} (trk : TrackSel) (hp : s.prog = some p) :
    exec (.setAckBaseline trk) s = .next (s.setSession
      { p.session with ackBaseline := s.drawCurrent, ackThreshold := s.drawCurrent + s.thresholdDelta }) := by
  simp only [exec, execSetAckBaseline, hp]

theorem exec_setAckPending {s : State} {p : Prog} (trk : TrackSel) (hp : s.prog = some p) :
    exec (.setAckPending trk) s = .next (s.setSession (p.session.arm s.env.nowMs)) := by
  simp only [exec, execSetAckPending, hp]

theorem exec_getAck {s : State} {p : Prog} (trk : TrackSel) (hp : s.prog = some p) :
    exec (.getAck trk) s = .next (s.respond (.ack (ackCode p.session.result))) := by
  simp only [exec, execGetAck, hp]

/-- The increment of the threshold is taken modulo `2^CUR_W` (R156). -/
theorem State.thresholdDelta_lt (s : State) : s.thresholdDelta < 2 ^ s.par.curW := Nat.mod_lt _ (Nat.two_pow_pos _)

/-- Settles O37: two numbers of `CUR_W` bits have a sum of `CUR_W + 1` bits. -/
theorem baselineSetsTheThreshold : Obligations.BaselineSetsTheThreshold := by
  intro s trk p hp c delta S
  constructor
  · rw [exec_setAckBaseline trk hp, State.setSession_of_some hp]
    rfl
  · rw [Nat.two_pow_succ]
    exact Nat.add_lt_add s.drawCurrent_lt s.thresholdDelta_lt

/-- Settles O38, from the equation of the operation. -/
theorem armingOpensTheSession : Obligations.ArmingOpensTheSession := by
  intro s trk p hp S
  rw [exec_setAckPending trk hp, State.setSession_of_some hp]
  rfl

/-! ### The result by the two flags (R165) -/

theorem AckSession.result_of_open {S : AckSession} (ho : S.ackPending = true) : S.result = .pending := if_pos ho

theorem AckSession.result_of_detected {S : AckSession} (hc : S.ackPending = false) (hd : S.ackDetected = true) :
    S.result = .ack :=
  (if_neg (Bool.eq_false_iff.mp hc)).trans (if_pos hd)

theorem AckSession.result_of_undetected {S : AckSession} (hc : S.ackPending = false) (hd : S.ackDetected = false) :
    S.result = .noAck :=
  (if_neg (Bool.eq_false_iff.mp hc)).trans (if_neg (Bool.eq_false_iff.mp hd))

/-- Settles O39, flag by flag. -/
theorem getAckReadsTheFlags : Obligations.GetAckReadsTheFlags := by
  intro s trk p hp answer
  rw [exec_getAck trk hp]
  refine ⟨fun ho => ?_, fun hc hd => ?_, fun hc hd => ?_⟩
  · rw [AckSession.result_of_open ho]; rfl
  · rw [AckSession.result_of_detected hc hd]; rfl
  · rw [AckSession.result_of_undetected hc hd]; rfl

/-! ### The rows of the detector tick (R158) -/

theorem exec_sampleTick {s : State} {p : Prog} (hp : s.prog = some p) :
    exec .sampleTick s = .next { s with prog := some (s.detect p) } := by
  simp only [exec, execSampleTick, hp]

/-- The window test of R162, both ends included. -/
theorem CfgRegs.inWindow_iff (g : CfgRegs) (d : Time) :
    g.inWindow d = true ↔ g.minAckPulseDuration.toNat ≤ d.toNat ∧ d.toNat ≤ g.maxAckPulseDuration.toNat := by
  rw [CfgRegs.inWindow, Bool.and_eq_true, decide_eq_true_eq, decide_eq_true_eq]

/-- The timeout test of step 1 fails up to six fillers (R159). -/
theorem Track.timedOut_eq_false {T : Track} (inTime : T.sentResetsSincePacket.toNat ≤ 6) : T.timedOut = false :=
  decide_eq_false inTime.not_gt

/-- The sample above the threshold (R160). -/
theorem AckSession.over_eq_true {S : AckSession} {c : Nat} (high : S.ackThreshold < c) : S.over c = true :=
  decide_eq_true high

theorem AckSession.over_eq_false {S : AckSession} {c : Nat} (low : c ≤ S.ackThreshold) : S.over c = false :=
  decide_eq_false low.not_gt

/-- A pulse is in progress where its start is noted (R36). -/
theorem AckSession.inPulse_eq_true {S : AckSession} (noted : S.ackPulseStart ≠ 0) : S.inPulse = true :=
  bne_iff_ne.mpr noted

theorem AckSession.inPulse_eq_false {S : AckSession} (idle : S.ackPulseStart = 0) : S.inPulse = false := by
  rw [AckSession.inPulse, idle, bne_self_eq_false]

/-- Step 2 leaves what the tests of steps 3 and 4 read (R158). -/
@[simp] theorem AckSession.sample_over (S : AckSession) (c x : Nat) : (S.sample x).over c = S.over c := by
  rw [AckSession.sample_eq]
  rfl

@[simp] theorem AckSession.sample_inPulse (S : AckSession) (x : Nat) : (S.sample x).inPulse = S.inPulse := by
  rw [AckSession.sample_eq]
  rfl

@[simp] theorem AckSession.sample_ackPulseStart (S : AckSession) (x : Nat) :
    (S.sample x).ackPulseStart = S.ackPulseStart := by
  rw [AckSession.sample_eq]

@[simp] theorem AckSession.measure_ackPulseDuration (S : AckSession) (us : Time) :
    (S.measure us).ackPulseDuration = us - S.ackPulseStart := rfl

section
variable {g : CfgRegs} {c : Nat} {us ms : Time} {p : Prog}

/-- Step 1: more than six fillers have passed, and no sample is taken (R159). -/
theorem Prog.sampleTick_of_timedOut (late : 6 < p.track.sentResetsSincePacket.toNat) :
    p.sampleTick g c us ms = { p with session := p.session.timeout ms } :=
  if_pos (decide_eq_true late)

/-- Step 3: the sample is above the threshold (R160). -/
theorem Prog.sampleTick_of_high (inTime : p.track.sentResetsSincePacket.toNat ≤ 6)
    (high : p.session.ackThreshold < c) :
    p.sampleTick g c us ms = { p with session := (p.session.sample c).risingEdge us } := by
  simp only [Prog.sampleTick, Track.timedOut_eq_false inTime, AckSession.sample_over, AckSession.over_eq_true high,
    Bool.false_eq_true, if_false, if_true]

/-- Step 4 outside a pulse: nothing beside the sample. -/
theorem Prog.sampleTick_of_quiet (inTime : p.track.sentResetsSincePacket.toNat ≤ 6)
    (low : c ≤ p.session.ackThreshold) (idle : p.session.ackPulseStart = 0) :
    p.sampleTick g c us ms = { p with session := p.session.sample c } := by
  simp only [Prog.sampleTick, Track.timedOut_eq_false inTime, AckSession.sample_over, AckSession.over_eq_false low,
    AckSession.sample_inPulse, AckSession.inPulse_eq_false idle, Bool.false_eq_true, if_false]

/-- Step 4 at the trailing edge: the pulse is measured, and accepted or discarded by its duration (R161, R162, R164). -/
theorem Prog.sampleTick_of_trailingEdge (inTime : p.track.sentResetsSincePacket.toNat ≤ 6)
    (low : c ≤ p.session.ackThreshold) (noted : p.session.ackPulseStart ≠ 0) :
    p.sampleTick g c us ms =
      if g.inWindow (us - p.session.ackPulseStart) then
        { track := { p.track with transmitRepeats := 0 }, session := ((p.session.sample c).measure us).accept ms }
      else { p with session := ((p.session.sample c).measure us).discard } := by
  simp only [Prog.sampleTick, Track.timedOut_eq_false inTime, AckSession.sample_over, AckSession.over_eq_false low,
    AckSession.sample_inPulse, AckSession.inPulse_eq_true noted, Bool.false_eq_true, if_false, if_true,
    AckSession.measure_ackPulseDuration, AckSession.sample_ackPulseStart]

end

/-- Settles O41, row by row: the timeout, the sample above the threshold, and the sample below it outside a pulse or at
its trailing edge. -/
theorem detectorFollowsTheTable : Obligations.DetectorFollowsTheTable := by
  intro s p hp c S d ok inTime M ends
  have row {U : Track} {S' : AckSession} (e : s.detect p = ⟨U, S'⟩) : ends U S' := by
    show exec .sampleTick s = _
    rw [exec_sampleTick hp, e]
  have sampled : S.sample c = { S with ackMaxCurrent := M } := S.sample_eq c
  refine ⟨fun late => ?_, fun early high idle => ?_, fun early high noted => ?_, fun early low idle => ?_,
    fun early low noted inWindow => ?_, fun early low noted outside => ?_⟩
  · exact row (Prog.sampleTick_of_timedOut (not_le.mp late))
  · refine row ((Prog.sampleTick_of_high early high).trans ?_)
    rw [AckSession.risingEdge, AckSession.sample_inPulse, AckSession.inPulse_eq_false idle, sampled]
    rfl
  · refine row ((Prog.sampleTick_of_high early high).trans ?_)
    rw [AckSession.risingEdge, AckSession.sample_inPulse, AckSession.inPulse_eq_true noted, sampled]
    rfl
  · refine row ((Prog.sampleTick_of_quiet early low idle).trans ?_)
    rw [sampled]
  · refine row ((Prog.sampleTick_of_trailingEdge early low noted).trans ?_)
    rw [if_pos ((s.cfg.inWindow_iff _).mpr inWindow), sampled]
    rfl
  · refine row ((Prog.sampleTick_of_trailingEdge early low noted).trans ?_)
    rw [if_neg (mt (s.cfg.inWindow_iff _).mp outside), sampled]
    rfl

/-! ### The tick in which an expired session ends -/

/-- Step 5 on the programming side: a track that goes to `PENDING` resolves its next bit, and its session is not looked
at (R196). -/
theorem State.progTick_of_start {s : State} {p : Prog} {U : Track} (hs : p.track.state = .start)
    (hU : p.track.step.advance s.par = .ok U) : s.progTick p = .ok { p with track := U } := by
  have pending : p.track.step.state = .pending := congrArg nextWave hs
  simp only [State.progTick, pending, hU, if_true]

/-- Step 6: where no bit is resolved an open session runs the detector (R196). -/
theorem State.progTick_of_open {s : State} {p : Prog} (hw : nextWave p.track.state ≠ .pending)
    (ho : p.session.ackPending = true) : s.progTick p = .ok (s.detect { p with track := p.track.step }) := by
  have settled : p.track.step.state ≠ .pending := hw
  simp only [State.progTick, settled, ho, if_false, if_true]

/-- An open session has found no pulse (R44 bound 8). -/
theorem AckSession.Inv.undetected {w : Nat} {S : AckSession} (h : S.Inv w) (ho : S.ackPending = true) :
    S.ackDetected = false :=
  Bool.eq_false_iff.mpr fun hd => Bool.false_ne_true ((h.detectedClosed hd).symm.trans ho)

/-- Settles O42: a track at `START` resolves a bit and leaves the session alone; any other runs the detector, which ends
the session in its first step. -/
theorem timeoutEndsTheSessionAtADetectorTick : Obligations.TimeoutEndsTheSessionAtADetectorTick := by
  intro s p hs hp ho late
  have track := hs.prog p hp
  obtain ⟨T, hT⟩ := s.main.resolve_completes s.par hs.main.inside
  have ticks {q : Prog} (hq : s.progTick p = .ok q) : exec .tick s = .next { s.afterMain p T with prog := some q } :=
    (execTick_of_some hp).trans (s.tickBoth_ok p q T hT hq)
  by_cases start : p.track.state = .start
  · obtain ⟨U, hU⟩ := p.track.step.advance_completes s.par track.inside
    exact ⟨_, _, ticks (State.progTick_of_start start hU), rfl, fun _ => rfl, fun other => absurd start other⟩
  · have settled : nextWave p.track.state ≠ .pending := fun hw => start (nextWave_eq_pending track.notPending hw)
    have expired : s.detect { p with track := p.track.step } =
        { track := p.track.step, session := p.session.timeout s.env.nowMs } := Prog.sampleTick_of_timedOut late
    refine ⟨_, _, ticks ((State.progTick_of_open settled ho).trans (congrArg _ expired)), rfl,
      fun other => absurd other start, fun _ => ⟨?_, rfl, rfl, rfl⟩⟩
    exact AckSession.result_of_undetected rfl ((hs.session p hp).undetected ho)

end Sys2Proof.Machine
end

section
/-! PROOFS of the family 43_track_coordinator.md: the power modes by track and by id, `poll`, and the configuration
registers. Each operation is said once, of a track that exists or of the drivers that count; what those drivers are follows
from the presence of a programming track alone. -/

namespace Sys2Proof.Machine

/-! ### Power modes by track (R182, R183) -/

/-- A programming track that exists has its registers. -/
theorem State.exists_track?_prog {s : State} (h : s.prog.isSome) : ∃ T, s.track? .prog = some T := by
  obtain ⟨p, hp⟩ := Option.isSome_iff_exists.mp h
  exact ⟨p.track, by rw [State.track?_prog, hp, Option.map_some]⟩

theorem exec_setPowerMode {s : State} {trk : TrackSel} {T : Track} (hT : s.track? trk = some T) :
    exec (.setPowerMode trk) s =
      .next (s.emitAll ((s.chain trk).ids.map fun d => .setPowerMode d s.port.args.argMode)) := by
  simp only [exec, execSetPowerMode, hT]

theorem exec_getPowerMode {s : State} {trk : TrackSel} {T : Track} (hT : s.track? trk = some T) :
    exec (.getPowerMode trk) s = .next (s.answerMode (s.driverMode (s.chain trk).primary)) := by
  simp only [exec, execGetPowerMode, hT]

/-- Some mode is answered, whether or not the track exists (log entry 8). -/
theorem exec_getPowerMode_answers (trk : TrackSel) (s : State) :
    ∃ m, exec (.getPowerMode trk) s = .next (s.answerMode m) := by
  cases hT : s.track? trk with
  | none => exact ⟨Config.freePowerMode s.freeCount, by simp only [exec, execGetPowerMode, hT]⟩
  | some T => exact ⟨_, exec_getPowerMode hT⟩

/-- The mode a driver reports is the one the inputs list (R183). -/
theorem State.driverMode_of_lookup {s : State} {id : Byte} {m : PowerMode} (hm : s.env.modes.lookup id = some m) :
    s.driverMode id = m := by
  simp only [State.driverMode, hm]

/-! ### Power modes by id (R184, R185) -/

section
variable {s : State} (trk : TrackSel)

theorem exec_setPowerModeId_of_mem (h : s.port.args.argId ∈ s.drivers) :
    exec (.setPowerModeId trk) s = .next (s.emit (.setPowerMode s.port.args.argId s.port.args.argMode)) := if_pos h

theorem exec_setPowerModeId_of_notMem (h : s.port.args.argId ∉ s.drivers) :
    exec (.setPowerModeId trk) s = .next s := if_neg h

theorem exec_getPowerModeId_of_mem (h : s.port.args.argId ∈ s.drivers) :
    exec (.getPowerModeId trk) s = .next (s.answerMode (s.driverMode s.port.args.argId)) := if_pos h

theorem exec_getPowerModeId_of_notMem (h : s.port.args.argId ∉ s.drivers) :
    exec (.getPowerModeId trk) s = .next (s.answerMode (Config.freePowerMode s.freeCount)) := if_neg h

end

/-- Some mode is answered, whether or not a driver has the id (log entry 8). -/
theorem exec_getPowerModeId_answers (trk : TrackSel) (s : State) :
    ∃ m, exec (.getPowerModeId trk) s = .next (s.answerMode m) := by
  by_cases h : s.port.args.argId ∈ s.drivers
  · exact ⟨_, exec_getPowerModeId_of_mem trk h⟩
  · exact ⟨_, exec_getPowerModeId_of_notMem trk h⟩

/-- Settles O47: the chain of a track that exists, and the drivers of both chains. -/
theorem setPowerModeReachesItsDrivers : Obligations.SetPowerModeReachesItsDrivers := by
  intro s trk id mode
  refine ⟨exec_setPowerMode rfl, fun h => ?_, fun h hid => ?_, fun h hid => ?_⟩
  · obtain ⟨T, hT⟩ := State.exists_track?_prog h
    exact exec_setPowerMode hT
  · rw [← s.drivers_of_prog h] at hid
    exact exec_setPowerModeId_of_mem trk hid
  · rw [← s.drivers_of_prog h] at hid
    exact exec_setPowerModeId_of_notMem trk hid

/-- Settles O48: the driver asked reports the mode the inputs list, and some mode is answered in every case. -/
theorem getPowerModeAsksItsDriver : Obligations.GetPowerModeAsksItsDriver := by
  intro s trk m answer
  refine ⟨fun hm => ?_, fun h hm => ?_, fun h hid hm => ?_, exec_getPowerMode_answers trk s,
    exec_getPowerModeId_answers trk s⟩
  · rw [← State.driverMode_of_lookup hm]
    exact exec_getPowerMode rfl
  · obtain ⟨T, hT⟩ := State.exists_track?_prog h
    rw [← State.driverMode_of_lookup hm]
    exact exec_getPowerMode hT
  · rw [← s.drivers_of_prog h] at hid
    rw [← State.driverMode_of_lookup hm]
    exact exec_getPowerModeId_of_mem trk hid

/-- Settles O54: without a programming track the drivers that count are those of the main chain. -/
theorem powerModeByIdWithoutAProgrammingTrack : Obligations.PowerModeByIdWithoutAProgrammingTrack := by
  intro s trk m hp id
  rw [← s.drivers_of_none hp]
  refine ⟨exec_setPowerModeId_of_mem trk, exec_setPowerModeId_of_notMem trk, fun hid hm => ?_⟩
  rw [← State.driverMode_of_lookup hm]
  exact exec_getPowerModeId_of_mem trk hid

/-! ### The poll (R187) -/

theorem State.pollEvents_of_prog {s : State} (h : s.prog.isSome) (ackWindow : Bool) :
    s.pollEvents ackWindow = (s.par.chainMain.ids.map fun d => .checkPowerOverload d false) ++
      s.par.chainProg.ids.map fun d => .checkPowerOverload d (s.overloadHint ackWindow) := by
  rw [State.pollEvents, State.hasProg, if_pos h]

theorem State.pollEvents_of_none {s : State} (hp : s.prog = none) (ackWindow : Bool) :
    s.pollEvents ackWindow = s.par.chainMain.ids.map fun d => .checkPowerOverload d false := by
  have absent : ¬ s.prog.isSome := by simp [hp]
  rw [State.pollEvents, State.hasProg, if_neg absent, List.append_nil]

/-- Settles O49, from the commands of one poll in either configuration. -/
theorem pollGivesEachDriverItsHint : Obligations.PollGivesEachDriverItsHint := by
  intro s trk
  have polled : exec (.poll trk) s = .next (s.emitAll (s.pollEvents s.port.args.argFlag)) := rfl
  refine ⟨fun hp => ?_, fun h => ?_⟩
  · rw [polled, State.pollEvents_of_none hp]
    rfl
  · rw [polled, State.pollEvents_of_prog h]
    rfl

/-! ### The configuration registers (R40, R186) -/

/-- The rows of format CFGREG are `setConfig` at their number (R40). -/
theorem exec_cfgInstr (n : Fin 8) (s : State) : exec (cfgInstr n) s = .next (s.writeConfig n.val) := by
  fin_cases n <;> rfl

/-- The register of each number and the width its value is cut to (R186). -/
theorem CfgRegs.write_eq (w : Nat) (g : CfgRegs) (n : Fin 8) (v : BitVec 32) :
    g.write w n.val v =
      if n = 0 then { g with progTrackSyncMain := v.getLsbD 0 }
      else if n = 1 then { g with progTrackBoosted := v.getLsbD 0 }
      else if n = 2 then { g with ackLimit := v.toNat % 2 ^ w }
      else if n = 3 then { g with minAckPulseDuration := v }
      else if n = 4 then { g with maxAckPulseDuration := v }
      else g := by
  fin_cases n <;> rfl

/-- Settles O50: the row and the operation are one write of the register of that number. -/
theorem setConfigWritesItsRegister : Obligations.SetConfigWritesItsRegister := by
  intro s trk n v written
  have wrote : s.writeConfig n.val = { s with cfg := written } :=
    congrArg (fun g => { s with cfg := g }) (s.cfg.write_eq s.par.curW n v)
  constructor
  · rw [exec_cfgInstr, wrote]
  · intro hn
    have e : exec (.setConfig trk) s = .next (s.writeConfig s.port.args.argReg.toNat) := rfl
    rw [e, hn, wrote]

end Sys2Proof.Machine
end

section
/-! PROOFS of the family 44_dispatcher.md: both forms of the tick, what joining the tracks changes in one, and the steps of
a programming track that does not exist. -/

namespace Sys2Proof.Machine

/-! ### The main track in a tick (R196, R197) -/

/-- Step 5 where the new state is a wave state: the table transition stands (R196). -/
theorem Track.resolve_of_settled {T : Track} (p : Params) (hw : nextWave T.state ≠ .pending) :
    T.step.resolve p = .ok T.step := if_neg hw

/-- Step 5 where the new state is `PENDING`: the next bit is resolved (R196). -/
theorem Track.resolve_of_pending {T : Track} (p : Params) (hw : nextWave T.state = .pending) :
    T.step.resolve p = Track.advance p { T with state := .pending } := by
  rw [← hw]
  exact if_pos hw

/-- What a tick makes of the main track: the table transition, or the encoder step where that leads to `PENDING`. -/
theorem State.main_moves {s : State} {T : Track} (hT : s.main.step.resolve s.par = .ok T) :
    (nextWave s.main.state ≠ .pending → T = { s.main with state := nextWave s.main.state }) ∧
    (nextWave s.main.state = .pending →
      exec (.advance .main) { s with main := { s.main with state := .pending } } = .next { s with main := T }) := by
  constructor
  · intro hw
    rw [Track.resolve_of_settled s.par hw] at hT
    injection hT with hT
    exact hT.symm
  · intro hw
    rw [Track.resolve_of_pending s.par hw] at hT
    exact exec_advance (s := { s with main := { s.main with state := .pending } }) rfl hT

/-- Settles O43: inside the buffers both tracks' steps complete, and steps 4 to 6 on the programming side go one of three
ways, each of them the meaning of an internal step. -/
theorem tickAdvancesBothTracks : Obligations.TickAdvancesBothTracks := by
  intro s p hp mainInside progInside lm lp p1
  obtain ⟨T, hT⟩ := s.main.resolve_completes s.par mainInside
  obtain ⟨q, hq⟩ := s.progTick_completes p progInside
  obtain ⟨settled, resolved⟩ := State.main_moves hT
  have stepped : ({ s with prog := some p1 } : State).track? .prog = some p.track.step := rfl
  refine ⟨T, q, (execTick_of_some hp).trans (s.tickBoth_ok p q T hT hq), settled, resolved, ?_⟩
  rcases s.progTick_cases p q hq with ⟨hw, U, hU, rfl⟩ | ⟨hw, closed, rfl⟩ | ⟨hw, opened, rfl⟩
  · exact ⟨fun _ => ⟨rfl, exec_advance stepped hU⟩, fun h => absurd hw h, fun h => absurd hw h⟩
  · exact ⟨fun h => absurd h hw, fun _ _ => rfl, fun _ h => Bool.noConfusion (closed.symm.trans h)⟩
  · exact ⟨fun h => absurd h hw, fun _ h => Bool.noConfusion (opened.symm.trans h),
      fun _ _ => exec_sampleTick (s := { s with prog := some p1 }) rfl⟩

/-- Settles O44: inside the buffer the main track's step completes, and the tick is that step with its level. -/
theorem mainOnlyTickLeavesTheRest : Obligations.MainOnlyTickLeavesTheRest := by
  intro s inside
  obtain ⟨T, hT⟩ := s.main.resolve_completes s.par inside
  obtain ⟨settled, resolved⟩ := State.main_moves hT
  exact ⟨T, s.tickMain_ok T hT, settled, resolved, execTick_of_none⟩

/-! ### The wave rows as the main-only tick (R5) -/

/-- The wave rows are one operation at their state (R82 to R84). -/
theorem exec_waveInstr (w : Wave) (t : TrackSel) (s : State) : exec (waveInstr w t) s = s.waveRow w t := by
  cases w <;> rfl

/-- A wave row on a track that exists: its level, then its transition as an operation on the track. -/
theorem State.waveRow_some {s : State} {t : TrackSel} {T : Track} (w : Wave) (hT : s.track? t = some T) :
    s.waveRow w t =
      (s.setSignal t (levelOf w)).onTrack t fun X => Track.resolve s.par { X with state := nextWave w } := by
  cases hU : Track.resolve s.par { T with state := nextWave w } <;>
    simp only [State.waveRow, State.onTrack, State.setSignal_track?, hT, hU]

/-- Settles O20: at the state the main track is in, the row's level and transition are those of the tick. -/
theorem mainTickRunsTheRowOfItsState : Obligations.MainTickRunsTheRowOfItsState := by
  intro s
  rw [exec_waveInstr, State.waveRow_some s.main.state s.track?_main]
  rfl

/-! ### Joined tracks (R199) -/

/-- The state with the tracks joined, or not. -/
def State.joined (s : State) (b : Bool) : State := { s with cfg := { s.cfg with progTrackSyncMain := b } }

/-- Steps 4 to 6 on the programming side do not read whether the tracks are joined. -/
theorem State.progTick_joined (s : State) (b : Bool) (p : Prog) : (s.joined b).progTick p = s.progTick p := rfl

/-- The level a two-track tick asserts on the programming output (R196 step 2). -/
theorem execTick_progSignal {s t : State} {p : Prog} (hp : s.prog = some p) (h : exec .tick s = .next t) :
    t.progSignal = s.progLevel p := by
  rw [execTick_of_some hp] at h
  obtain ⟨T, q, -, -, rfl⟩ := s.tickBoth_next t p h
  rfl

/-- Settles O46: each track is taken from its own part of the tick, which does not read the configuration bit; the level of
the programming output alone does. -/
theorem joiningChangesOnlyTheProgrammingLevel : Obligations.JoiningChangesOnlyTheProgrammingLevel := by
  intro s t t' p hp h h'
  obtain ⟨main, mainLevel⟩ := execTick_main h
  obtain ⟨main', mainLevel'⟩ := execTick_main h'
  obtain ⟨q, hq, prog⟩ := execTick_prog (s := s.joined true) hp h
  obtain ⟨q', hq', prog'⟩ := execTick_prog (s := s.joined false) hp h'
  rw [State.progTick_joined] at hq hq'
  have sameProg : q = q' := Except.ok.inj (hq.symm.trans hq')
  refine ⟨Except.ok.inj (main.symm.trans main'), ?_, mainLevel.trans mainLevel'.symm, ?_, ?_⟩
  · rw [prog, prog', sameProg]
  · exact (execTick_progSignal (s := s.joined true) hp h).trans mainLevel.symm
  · exact execTick_progSignal (s := s.joined false) hp h'

/-! ### A programming track that does not exist (log entry 4) -/

section
variable {s : State} {t : TrackSel}

theorem State.onTrack_of_noTrack {f : Track → Except Fault Track} (hT : s.track? t = none) :
    s.onTrack t f = .next s := by
  simp only [State.onTrack, hT]

theorem State.levelRow_of_noTrack {l : Level} (hT : s.track? t = none) : s.levelRow l t = s := by
  simp only [State.levelRow, hT]

theorem execLevel_of_noTrack (hT : s.track? t = none) : execLevel t s = .next s := by
  simp only [execLevel, hT]

end

theorem execSampleTick_of_none {s : State} (hp : s.prog = none) : execSampleTick s = .next s := by
  simp only [execSampleTick, hp]

/-- Settles O53: each of these steps and rows is an operation on the programming track, and finds none. -/
theorem rowsWithoutAProgrammingTrack : Obligations.RowsWithoutAProgrammingTrack := by
  intro s w k hp
  have hT : s.track? .prog = none := by rw [State.track?_prog, hp]; rfl
  have omitted (f : Track → Except Fault Track) : s.onTrack .prog f = .next s := State.onTrack_of_noTrack hT
  have silent (l : Level) : Host.Outcome.next (s.levelRow l .prog) = (.next s : Result) :=
    congrArg _ (State.levelRow_of_noTrack hT)
  exact ⟨(exec_waveInstr w .prog s).trans (State.waveRow_of_noTrack hT), (exec_maskInstr k .prog s).trans (omitted _),
    execLevel_of_noTrack hT, omitted fun T => .ok T.step, omitted (Track.advance s.par),
    omitted fun T => .ok (T.packetBoundary s.par), execSampleTick_of_none hp, silent .low, silent .high,
    omitted fun T => .ok (T.loadFiller s.par.resetPacket)⟩

end Sys2Proof.Machine
end

section
/-! PROOFS of the family 60_exceptions.md: a block inside its bounds takes every turn of its agents, and a tick writes
nothing that belongs to the control context. -/

namespace Sys2Proof.Machine

/-! ### No step stops (R213) -/

theorem State.Inv.tickMain_completes {s : State} (h : s.Inv) : ∃ t, s.tickMain = .next t := by
  obtain ⟨T, hT⟩ := s.main.resolve_completes s.par h.main.inside
  exact ⟨_, s.tickMain_ok T hT⟩

theorem State.Inv.tickBoth_completes {s : State} {p : Prog} (h : s.Inv) (hp : s.prog = some p) :
    ∃ t, s.tickBoth p = .next t := by
  obtain ⟨T, hT⟩ := s.main.resolve_completes s.par h.main.inside
  obtain ⟨q, hq⟩ := s.progTick_completes p (h.prog p hp).inside
  exact ⟨_, s.tickBoth_ok p q T hT hq⟩

/-- Whichever tick row the strobe runs, its cursors are inside the buffers, so it completes (R44, R63). -/
theorem State.Inv.execStrobe_completes {s : State} (h : s.Inv) (hasProg : Bool) :
    ∃ t, exec (decodeStrobe hasProg) s = .next t := by
  cases hasProg with
  | false => exact h.tickMain_completes
  | true =>
    rw [decodeStrobe, if_pos rfl]
    cases hp : s.prog with
    | none =>
      rw [execTick_of_none hp]
      exact h.tickMain_completes
    | some p =>
      rw [execTick_of_some hp]
      exact h.tickBoth_completes hp

/-- A command of the port completes in every state: where it cannot act it does nothing, answers, or is held (R102, R142,
R200). -/
theorem portCommand_completes {i : Instr} (hi : i.isPortCommand = true) (s : State) : ∃ t, exec i s = .next t := by
  cases i with
  | schedulePacket trk =>
    rcases execSchedulePacket_cases trk s with e | ⟨T, -, -, -, e⟩ | ⟨T, -, -, -, e⟩ <;> exact ⟨_, e⟩
  | setAckBaseline _ | setAckPending _ | getAck _ =>
    simp only [exec, execSetAckBaseline, execSetAckPending, execGetAck]
    split <;> exact ⟨_, rfl⟩
  | setPowerMode _ | setPowerModeId _ =>
    simp only [exec, execSetPowerMode, execSetPowerModeId]
    split <;> exact ⟨_, rfl⟩
  | getPowerMode trk =>
    obtain ⟨m, e⟩ := exec_getPowerMode_answers trk s
    exact ⟨_, e⟩
  | getPowerModeId trk =>
    obtain ⟨m, e⟩ := exec_getPowerModeId_answers trk s
    exact ⟨_, e⟩
  | poll _ | setConfig _ => exact ⟨_, rfl⟩
  | opReserved0 _ | opReservedB _ | opReservedC _ | opReservedD _ | opReservedE _ | opReservedF _
  | opReservedLowbits _ => exact ⟨s, rfl⟩
  | _ => cases hi

/-- Settles O5: the turns to come are turns of the agents, a strobe finds the cursors inside their buffers, and a command
completes in every state. -/
theorem invariantStatesNeverStop : Obligations.InvariantStatesNeverStop := by
  intro s h
  match ht : s.turns with
  | [] =>
    have begun : s.beginFreeTick.Inv := { h with }
    rw [step_of_noTurns s ht]
    exact begun.execStrobe_completes s.hasProg
  | .strobe d :: rest =>
    have begun : (s.beginTurn d rest).Inv := { h with agents := by simpa [ht, Turn.isAgent] using h.agents }
    rw [step_of_strobe s d rest ht]
    exact begun.execStrobe_completes s.hasProg
  | .control d :: rest =>
    match hc : s.ctl with
    | [] => exact ⟨_, step_of_control_nil s d rest ht hc⟩
    | a :: as =>
      obtain ⟨u, hu⟩ := portCommand_completes (decodePort_isPortCommand a.cmd) ((s.beginTurn d rest).latchCommand a)
      rw [step_of_control s d rest a as ht hc, hu]
      exact ⟨u.retire true, rfl⟩
  | .reset :: rest => exact ⟨_, step_of_reset s rest ht⟩
  | .row c d :: rest =>
    have agents := h.agents
    rw [ht] at agents
    cases agents

/-! ### What a tick leaves to the control context (R61, R220) -/

/-- From `T` to `U` no register of the pending side is written, but that an occupied slot may be freed. -/
def Track.LeavesPendingSide (T U : Track) : Prop :=
  U.pendingBuffer = T.pendingBuffer ∧ U.pendingLength = T.pendingLength ∧ U.pendingRepeats = T.pendingRepeats ∧
  (U.packetPending = true → T.packetPending = true)

theorem Track.LeavesPendingSide.refl (T : Track) : T.LeavesPendingSide T := ⟨rfl, rfl, rfl, id⟩

/-- The boundary reads the pending side, and frees the slot where it takes the packet (R120). -/
theorem Track.packetBoundary_leavesPendingSide (p : Params) (T : Track) : T.LeavesPendingSide (T.packetBoundary p) := by
  rcases T.packetBoundary_cases p with ⟨-, e⟩ | ⟨-, -, e⟩ | ⟨-, -, e⟩ <;> rw [e]
  · exact .refl T
  · exact ⟨rfl, rfl, rfl, nofun⟩
  · exact .refl T

theorem Track.moveCursor_leavesPendingSide (p : Params) (T : Track) : T.LeavesPendingSide (T.moveCursor p) := by
  rcases T.moveCursor_cases p with ⟨k, -, e⟩ | ⟨-, -, e⟩ | ⟨-, -, e⟩ <;> rw [e]
  · exact .refl T
  · exact .refl T
  · exact Track.packetBoundary_leavesPendingSide p { T with bitsSent := 0, bytesSent := T.bytesSent + 1 }

theorem Track.advance_leavesPendingSide {p : Params} {T U : Track} (h : T.advance p = .ok U) :
    T.LeavesPendingSide U := by
  rcases T.advance_cases p U h with ⟨-, rfl⟩ | ⟨-, -, b, rfl⟩
  · exact .refl T
  · exact Track.moveCursor_leavesPendingSide p (T.giveBit b)

theorem Track.resolve_leavesPendingSide {p : Params} {T U : Track} (h : T.resolve p = .ok U) :
    T.LeavesPendingSide U := by
  unfold Track.resolve at h
  split at h
  · exact Track.advance_leavesPendingSide h
  · cases h
    exact .refl T

/-- Steps 4 to 6 leave the pending side of the programming track: the detector writes of the track its repeats only. -/
theorem State.progTick_leavesPendingSide {s : State} {p q : Prog} (h : s.progTick p = .ok q) :
    p.track.LeavesPendingSide q.track := by
  rcases s.progTick_cases p q h with ⟨-, U, hU, rfl⟩ | ⟨-, -, rfl⟩ | ⟨-, -, rfl⟩
  · exact Track.advance_leavesPendingSide (T := p.track.step) hU
  · exact .refl p.track
  · obtain ⟨⟨r, hr⟩, -⟩ := Prog.sampleTick_frame s.cfg s.drawCurrent s.env.nowUs s.env.nowMs
      { p with track := p.track.step }
    rw [State.detect, hr]
    exact .refl p.track

/-- The session registers that the control context writes and a tick only reads (R156, R157). -/
def AckSession.controlSide (S : AckSession) : Nat × Nat × Time := (S.ackBaseline, S.ackThreshold, S.ackCheckStart)

theorem State.progTick_controlSide {s : State} {p q : Prog} (h : s.progTick p = .ok q) :
    q.session.controlSide = p.session.controlSide := by
  rcases s.progTick_cases p q h with ⟨-, U, -, rfl⟩ | ⟨-, -, rfl⟩ | ⟨-, -, rfl⟩
  · rfl
  · rfl
  · obtain ⟨-, baseline, threshold, checkStart⟩ := Prog.sampleTick_frame s.cfg s.drawCurrent s.env.nowUs s.env.nowMs
      { p with track := p.track.step }
    rw [AckSession.controlSide, State.detect, baseline, threshold, checkStart]
    rfl

section
variable {i : Instr} {s t : State}

/-- Either row is one of the two forms of the tick, the two-track form where there is a programming track (R196, R197). -/
theorem execTick_forms (hi : i = .tick ∨ i = .tickMainOnly) (h : exec i s = .next t) :
    s.tickMain = .next t ∨ ∃ p, s.prog = some p ∧ s.tickBoth p = .next t := by
  rcases hi with rfl | rfl
  · cases hp : s.prog with
    | none => exact .inl ((execTick_of_none hp).symm.trans h)
    | some p => exact .inr ⟨p, rfl, (execTick_of_some hp).symm.trans h⟩
  · exact .inl h

/-- Neither form of the tick writes a configuration register (R220). -/
theorem execTick_cfg (hi : i = .tick ∨ i = .tickMainOnly) (h : exec i s = .next t) : t.cfg = s.cfg := by
  rcases execTick_forms hi h with e | ⟨p, -, e⟩
  · obtain ⟨T, -, rfl⟩ := s.tickMain_next t e
    rfl
  · obtain ⟨T, q, -, -, rfl⟩ := s.tickBoth_next t p e
    rfl

/-- A track after a tick was there before it, and the tick has left its pending side. -/
theorem execTick_leavesPendingSide {k : TrackSel} {U : Track} (hi : i = .tick ∨ i = .tickMainOnly)
    (h : exec i s = .next t) (hU : t.track? k = some U) : ∃ T, s.track? k = some T ∧ T.LeavesPendingSide U := by
  obtain ⟨main, prog⟩ := execTick_tracks hi h
  cases k with
  | main =>
    cases hU
    exact ⟨s.main, rfl, Track.resolve_leavesPendingSide (T := s.main.step) main⟩
  | prog =>
    rcases prog with same | ⟨p, q, hp, hq, ht⟩
    · exact ⟨U, by rwa [State.track?_prog, same] at hU, .refl U⟩
    · rw [State.track?_prog, ht] at hU
      cases hU
      exact ⟨p.track, by rw [State.track?_prog, hp]; rfl, State.progTick_leavesPendingSide hq⟩

theorem execTick_controlSide {p q : Prog} (hi : i = .tick ∨ i = .tickMainOnly) (h : exec i s = .next t)
    (hp : s.prog = some p) (hq : t.prog = some q) : q.session.controlSide = p.session.controlSide := by
  obtain ⟨-, same | ⟨p', q', hp', moved, hq'⟩⟩ := execTick_tracks hi h
  · rw [same, hp] at hq
    cases hq
    rfl
  · cases hp.symm.trans hp'
    cases hq.symm.trans hq'
    exact State.progTick_controlSide moved

end

/-- `BUSY` says that the slot the port waits for is that of a track that exists, and is occupied (R101, R142). -/
theorem State.busy_iff (s : State) :
    s.busy = true ↔ ∃ k T, s.port.waiting = some k ∧ s.track? k = some T ∧ T.packetPending = true := by
  constructor
  · intro busy
    unfold State.busy State.slotOccupied at busy
    split at busy
    · split at busy
      · exact ⟨_, _, ‹_›, ‹_›, busy⟩
      · cases busy
    · cases busy
  · rintro ⟨k, T, hw, hT, hp⟩
    exact (s.busy_of_waiting k T hw hT).trans hp

/-- Settles O8: a tick leaves the pending side of each track, and `BUSY` is read off a slot and a port that it can only
leave or free. -/
theorem tickNeverWritesControlRegisters : Obligations.TickNeverWritesControlRegisters := by
  intro i s t hi h
  have port : t.port = s.port := execTick_port hi h
  refine ⟨execTick_cfg hi h, port, fun busy => ?_, fun k T U hT hU => ?_, fun p q hp hq => ?_⟩
  · obtain ⟨k, U, hw, hU, occupied⟩ := t.busy_iff.mp busy
    obtain ⟨T, hT, -, -, -, freed⟩ := execTick_leavesPendingSide hi h hU
    exact s.busy_iff.mpr ⟨k, T, port ▸ hw, hT, freed occupied⟩
  · obtain ⟨T', hT', left⟩ := execTick_leavesPendingSide hi h hU
    cases hT.symm.trans hT'
    exact left
  · simpa only [AckSession.controlSide, Prod.mk.injEq] using execTick_controlSide hi h hp hq

end Sys2Proof.Machine
end

section
/-! PROOFS of the family 70_reset_and_hazards.md: what a reset turn gives the block, and what it leaves outside it. -/

namespace Sys2Proof.Machine

/-- Settles O2: a reset turn only takes itself off the list and overwrites the block (`step_of_reset`), and each register
of the overwritten block reads as the reset state, the free values or what stood outside say (R242). -/
theorem resetTurnOverwritesTheBlock : Obligations.ResetTurnOverwritesTheBlock := by
  intro s rest ht
  have overwritten : step s = .next { s with turns := rest }.resetBlock := step_of_reset s rest ht
  exact ⟨_, overwritten, rfl, rfl, rfl, rfl, rfl, rfl, rfl, rfl, rfl, rfl, rfl⟩

end Sys2Proof.Machine
end
